-- ==== Sys2Proof/Word.lean ====
section
/-! DEFINITION. The widths of the machine: bytes, words, register numbers and the four-bit CC / AFE field
(10_state.md R10, 20_memory.md R60, 30_encoding.md R113). -/

namespace Sys2Proof

/-- A byte, the unit that an address names (20_memory.md R60). -/
abbrev Byte := BitVec 8

/-- A word: a general register, an address, an instruction (XLEN = 32, 00_scope.md section 4). -/
abbrev Word := BitVec 32

/-- The number of a general register, r0 to r31 (10_state.md R10). -/
abbrev Reg := BitVec 5

/-- The field of the instruction word that is an AFE code, and a condition code on jumps (30_encoding.md R113). -/
abbrev Code := BitVec 4

/-- The five flags, bit 4 to bit 0: SF OF CF PF ZF (10_state.md R14). -/
abbrev Flags := BitVec 5

end Sys2Proof
end

