-- ==== Sys2Proof/Syntax.lean ====
section
/-! DEFINITION. The instructions of MIST32: one constructor per row of spec/opcode_table.json. Operands are the decoded
32-bit values the rules speak of (30_encoding.md R112), so an immediate stands here as the word it denotes. -/

namespace Sys2Proof

/-- The sixteen condition codes in the order of their codes 0x0 to 0xF (30_encoding.md R115). -/
inductive Cond where
  | al | eq | neq | mi | pl | even | odd | ovf | ueo | uu | uo | ueu | seo | su | so | seu
  deriving DecidableEq, Repr

/-- A second operand: a register or a decoded immediate (30_encoding.md R112). -/
inductive Operand where
  | reg (rs : Reg)
  | imm (v : Word)
  deriving DecidableEq, Repr

/-- The operand of `srieiw`: a register, or an immediate beside a register field the form has but does not use
(30_encoding.md R122 format I11, 43_system.md R173). -/
inductive MaskOperand where
  | reg (rd : Reg)
  | imm (rd : Reg) (v : Word)
  deriving DecidableEq, Repr

/-- The system registers that have a read instruction of their own (43_system.md R176). -/
inductive ReadReg where
  | psr | cpuidr | coreidr | tidr | iosar | pdtr | kpdtr | tisr | idtr | fi0r | fi1r | frclr | frchr
  | pflagr | ppcr | ppsr | ppdtr | ptidr
  deriving DecidableEq, Repr

/-- The system registers that have a write instruction of their own, but for SPR and IDTR (43_system.md R177). -/
inductive WriteReg where
  | psr | tidr | pdtr | kpdtr | tisr | frclr | frchr | pflagr | ppcr | ppsr | ppdtr | ptidr
  deriving DecidableEq, Repr

/-- A destination register with the AFE code that acts on it, for instructions that have no word and so no AFE field. That they
may carry an AFE is the model's choice (44_afe.md R190; DESIGN CHOICE, log 57). -/
structure Dest where
  rd : Reg
  afe : Code
  deriving DecidableEq, Repr

/-- The instructions. Each constructor's comment names its rule; `afe` is the AFE code the word carries (44_afe.md R191). -/
inductive Instr where
  /-- `add rd, b` (R136). -/
  | add (afe : Code) (rd : Reg) (b : Operand)
  /-- `mul rd, b` (R139). -/
  | mul (afe : Code) (rd : Reg) (b : Operand)
  /-- `cmp rd, b` (R134). -/
  | cmp (afe : Code) (rd : Reg) (b : Operand)
  /-- `shl rd, b` (R137). -/
  | shl (afe : Code) (rd : Reg) (b : Operand)
  /-- `shr rd, b` (R138). -/
  | shr (afe : Code) (rd : Reg) (b : Operand)
  /-- `test rd, b` (R135). -/
  | test (afe : Code) (rd : Reg) (b : Operand)
  /-- `wl16 rd, imm` (R155). -/
  | wl16 (rd : Reg) (imm : BitVec 16)
  /-- `lil rd, imm` (R153). -/
  | lil (rd : Reg) (imm : BitVec 16)
  /-- `lih rd, imm` (R154). -/
  | lih (rd : Reg) (imm : BitVec 16)
  /-- `ld8 rd, ea` (R143). -/
  | ld8 (afe : Code) (rd : Reg) (ea : Operand)
  /-- `ld16 rd, ea` (R144). -/
  | ld16 (afe : Code) (rd : Reg) (ea : Operand)
  /-- `ld32 rd, ea` (R145). -/
  | ld32 (afe : Code) (rd : Reg) (ea : Operand)
  /-- `st8 rd, ea` (R146); `rd` is the data register. -/
  | st8 (afe : Code) (rd : Reg) (ea : Operand)
  /-- `st16 rd, ea` (R147). -/
  | st16 (afe : Code) (rd : Reg) (ea : Operand)
  /-- `st32 rd, ea` (R148). -/
  | st32 (afe : Code) (rd : Reg) (ea : Operand)
  /-- `push rd` (R150). -/
  | push (afe : Code) (rd : Reg)
  /-- `ppush` (R152). -/
  | ppush
  /-- `pop rd` (R151). -/
  | pop (afe : Code) (rd : Reg)
  /-- `b target, #cc` (R160, R161). -/
  | branch (cc : Cond) (target : Operand)
  /-- `ib`, return from interrupt (R163). -/
  | ib
  /-- `srspr rd` (R171). -/
  | srspr (afe : Code) (rd : Reg)
  /-- `srspw rs` (R172). -/
  | srspw (afe : Code) (rs : Reg)
  /-- `srieiw v` (R173). -/
  | srieiw (afe : Code) (v : MaskOperand)
  /-- `sridtw rs` (R174). -/
  | sridtw (afe : Code) (rs : Reg)
  /-- `movepc rd, off` (R162). -/
  | movepc (afe : Code) (rd : Reg) (off : Operand)
  /-- `swi n`, software interrupt (R182); `rd` is a register field the form has but does not use. The number is an
  immediate, as the provisional encoding has it, or a register, a form without a word (DESIGN CHOICE, log 59). -/
  | swi (afe : Code) (rd : Reg) (n : Operand)
  /-- `idts` (R175). -/
  | idts
  /-- `clw rd` (R140); abstract, no word. DESIGN CHOICE: it may carry an AFE (log 57). -/
  | clw (rd : Dest)
  /-- `sr<REG>r rd` (R176); abstract, no word. DESIGN CHOICE: it may carry an AFE (log 57). -/
  | srRegR (reg : ReadReg) (rd : Dest)
  /-- `sr<REG>w rs` (R177); abstract, no word. -/
  | srRegW (reg : WriteReg) (rs : Reg)
  /-- FRCR copy-out (R178); abstract, no word. -/
  | frcrCopyOut
  /-- FRCR copy-in (R179); abstract, no word. -/
  | frcrCopyIn
  /-- TLB flush (R180); abstract, no word. -/
  | tlbFlush
  /-- `sync` (R181); abstract, no word. -/
  | sync
  deriving DecidableEq, Repr

end Sys2Proof
end

