-- ==== Sys2Proof/Config.lean ====
section
/-! DEFINITION. The parameters of 00_scope.md section 4 as one record of plain data, and the FREE VALUES: constants without a
body, about whose value nothing can be proved. A `Config` stands in `State.cfg`, so a statement about every state is a
statement about every choice of the parameters (log 1). -/

namespace Sys2Proof

/-- The two processor types (TYPE, R2). -/
inductive ProcType where
  | typeS
  | typeE
  deriving DecidableEq, Repr

/-- How `push` and `pop` move SPR (STACK_DISCIPLINE, R149). -/
inductive StackDiscipline where
  | emptyDescending
  | emptyAscending
  | fullDescending
  deriving DecidableEq, Repr

/-- How `lil` fills rd[31:16] (LIL_EXT, R153). -/
inductive LilExt where
  | zero
  | sign
  deriving DecidableEq, Repr

/-- Whether `add`, `shl`, `shr`, `mul` generate flags (ARITH_FLAGS, R130). -/
inductive ArithFlags where
  | generate
  | zero
  deriving DecidableEq, Repr

/-- Which word of an IDT entry comes first in memory (IDT_WORD_ORDER, R205). -/
inductive IdtWordOrder where
  | hdlFirst
  | flagsFirst
  deriving DecidableEq, Repr

/-- What a shift by 32 or more does (R137, R138). The spec refuses it (D39, U28); under `free` the instruction runs and
its result, which no source states, is a free value. DESIGN CHOICE (log 13). -/
inductive ShiftBeyond where
  | refuse
  | free
  deriving DecidableEq, Repr

/-- The parameters of the model. No instruction changes them. -/
structure Config where
  /-- TYPE (R2). -/
  procType : ProcType
  /-- STACK_DISCIPLINE (R149). -/
  stack : StackDiscipline
  /-- PPUSH_OFFSET (R152). -/
  ppushOffset : Word
  /-- LIL_EXT (R153). -/
  lilExt : LilExt
  /-- ARITH_FLAGS (R130). -/
  arithFlags : ArithFlags
  /-- A shift by 32 or more (R137, R138, D39; log 13). -/
  shiftBeyond : ShiftBeyond
  /-- IDT_WORD_ORDER (R205). -/
  idtOrder : IdtWordOrder
  /-- USER_PRIV_FAULT (R233): true when User Mode takes interrupt 41 on a privileged instruction. -/
  userPrivFault : Bool
  /-- MEM_SIZE in bytes (R73). -/
  memSize : Nat
  /-- MMUMOD_SUPPORTED beside paging off (R75, R76). -/
  mmuMods : List (BitVec 2)
  /-- MMUPS_SUPPORTED (R75, R77). -/
  mmuPageSizes : List (BitVec 3)
  /-- The code of the AFE #sext8-32, where the platform gives it one (R193, N8). -/
  sext8Code : Option Code
  /-- Whether `decode` has the provisional encoding of R122 and R123 (R111). -/
  provisional : Bool
  /-- Words of the parameter `decode` beside, and before, the provisional encoding (R111). -/
  words : List (Word × Instr)
  /-- The address ranges, first and last byte, of the I/O region that belong to DPS; the rest belongs to GCI (R242, N7). -/
  dpsRanges : List (Word × Word)
  /-- For a hardware interrupt number, the address of the cause flag register that releases its unit (R223, N7). -/
  causeRegs : List (Nat × Word)
  deriving DecidableEq, Repr

/-- FREE VALUE: by how much FRCR advances before the step whose draw number is given (R35, D30; log 46). -/
opaque Config.frcAdvance : Nat → BitVec 64

/-- FREE VALUE: the word a device answers to a load from the I/O region (R242; log 25). -/
opaque Config.ioInput : Nat → Word

/-- FREE VALUE: the result of a shift by 32 or more, where the platform lets it run (R137, R138; log 13). -/
opaque Config.shiftBeyondWidth : Nat → Word

end Sys2Proof
end

