-- ==== Sys2Proof/WellFormed.lean ====
section
/-! DEFINITION. Well-formed instructions: the operand values that the fields of 30_encoding.md R122 can hold. Register
numbers, AFE codes and 16-bit immediates are in range by their types. -/

namespace Sys2Proof

/-- The values an 11-bit immediate, sign-extended, can denote (R122 format I11; log 8). -/
def fitsImm11 (v : Word) : Bool := decide (-1024 ≤ v.toInt) && decide (v.toInt ≤ 1023)

/-- The values a 16-bit jump immediate, counted in words, can denote (R122 format JI16; log 8). -/
def fitsJump (v : Word) : Bool := decide (v.toNat % 4 = 0) && decide (v.toNat < 2 ^ 18)

/-- A register, or an immediate that the I11 form holds. -/
def Operand.wf : Operand → Bool
  | .reg _ => true
  | .imm v => fitsImm11 v

/-- A register, or a target that the JI16 form holds. -/
def Operand.wfTarget : Operand → Bool
  | .reg _ => true
  | .imm v => fitsJump v

/-- A register, or a mask value that the I11 form holds. -/
def MaskOperand.wf : MaskOperand → Bool
  | .reg _ => true
  | .imm _ v => fitsImm11 v

/-- An instruction whose operands its encoding can hold. -/
def Instr.wf : Instr → Bool
  | .add _ _ b => b.wf
  | .mul _ _ b => b.wf
  | .cmp _ _ b => b.wf
  | .shl _ _ b => b.wf
  | .shr _ _ b => b.wf
  | .test _ _ b => b.wf
  | .wl16 _ _ => true
  | .lil _ _ => true
  | .lih _ _ => true
  | .ld8 _ _ ea => ea.wf
  | .ld16 _ _ ea => ea.wf
  | .ld32 _ _ ea => ea.wf
  | .st8 _ _ ea => ea.wf
  | .st16 _ _ ea => ea.wf
  | .st32 _ _ ea => ea.wf
  | .push _ _ => true
  | .ppush => true
  | .pop _ _ => true
  | .branch _ t => t.wfTarget
  | .ib => true
  | .srspr _ _ => true
  | .srspw _ _ => true
  | .srieiw _ v => v.wf
  | .sridtw _ _ => true
  | .movepc _ _ off => off.wf
  | .swi _ _ n => n.wf
  | .idts => true
  | .clw _ => true
  | .srRegR _ _ => true
  | .srRegW _ _ => true
  | .frcrCopyOut => true
  | .frcrCopyIn => true
  | .tlbFlush => true
  | .sync => true

end Sys2Proof
end

