-- ==== Sys2Proof/Decode.lean ====
section
/-! DEFINITION. The decoder: the provisional encoding of 30_encoding.md R122 and R123, total on every word and rejecting by
name; the platform's replaceable `decode` (R111); and the encoder, written from the same tables. PRESUMED: the encoding is
marked in the spec as coming from general knowledge (log 7). -/

namespace Sys2Proof

/-- Why a word is not an instruction (R119, R120, R122). -/
inductive Reject where
  /-- Fewer than four bytes. -/
  | tooShort
  /-- Bit 31 is 1. -/
  | bit31
  /-- The opcode is not in the table of R123. -/
  | opcode
  /-- A bit is 1 where the format has 0, or the opcode lacks this format. -/
  | reservedBits
  /-- The platform's `decode` has no provisional encoding and does not list the word. -/
  | unmapped
  /-- The instruction is one that Type-E does not have (R121). -/
  | notInTypeE
  deriving DecidableEq, Repr

/-- What the decoder answers. -/
inductive Decoded where
  | instr (i : Instr)
  | reject (r : Reject)
  deriving DecidableEq, Repr

/-! ### Fields of a word (R122) -/

def opcodeField (w : Word) : BitVec 10 := w.extractLsb' 21 10
def immFlagField (w : Word) : BitVec 1 := w.extractLsb' 20 1
def codeField (w : Word) : Code := w.extractLsb' 16 4
def midField (w : Word) : BitVec 6 := w.extractLsb' 10 6
def rdField (w : Word) : Reg := w.extractLsb' 5 5
def rsField (w : Word) : Reg := w.extractLsb' 0 5

/-- The split 11-bit immediate of format I11. -/
def imm11Field (w : Word) : BitVec 11 := midField w ++ rsField w

/-- The split 16-bit immediate of format I16. -/
def imm16Field (w : Word) : BitVec 16 := immFlagField w ++ codeField w ++ midField w ++ rsField w

/-- The contiguous 16-bit immediate of format JI16. -/
def jumpField (w : Word) : BitVec 16 := w.extractLsb' 0 16

/-- An I11 immediate denotes its sign extension, unscaled (log 8). -/
def imm11Value (v : BitVec 11) : Word := v.signExtend 32

/-- A JI16 immediate denotes an absolute address counted in words (K13; log 8). -/
def jumpValue (v : BitVec 16) : Word := v.zeroExtend 32 <<< 2

/-- The condition code of a four-bit code (R115). -/
def condOfCode (c : Code) : Cond :=
  match c.toNat with
  | 0 => .al | 1 => .eq | 2 => .neq | 3 => .mi | 4 => .pl | 5 => .even | 6 => .odd | 7 => .ovf
  | 8 => .ueo | 9 => .uu | 10 => .uo | 11 => .ueu | 12 => .seo | 13 => .su | 14 => .so | _ => .seu

/-- The four-bit code of a condition code (R115). -/
def codeOfCond : Cond → Code
  | .al => 0x0 | .eq => 0x1 | .neq => 0x2 | .mi => 0x3 | .pl => 0x4 | .even => 0x5 | .odd => 0x6 | .ovf => 0x7
  | .ueo => 0x8 | .uu => 0x9 | .uo => 0xA | .ueu => 0xB | .seo => 0xC | .su => 0xD | .so => 0xE | .seu => 0xF

/-! ### Formats (R122) -/

/-- Formats O2 and I11: a register, or an 11-bit immediate, as the second operand. -/
def decodeTwo (k : Code → Reg → Operand → Instr) (w : Word) : Decoded :=
  if immFlagField w = 1#1 then .instr (k (codeField w) (rdField w) (.imm (imm11Value (imm11Field w))))
  else if midField w = 0#6 then .instr (k (codeField w) (rdField w) (.reg (rsField w)))
  else .reject .reservedBits

/-- Format I16. -/
def decodeImm16 (k : Reg → BitVec 16 → Instr) (w : Word) : Decoded :=
  .instr (k (rdField w) (imm16Field w))

/-- Format O1. -/
def decodeOne (k : Code → Reg → Instr) (w : Word) : Decoded :=
  if immFlagField w = 0#1 ∧ midField w = 0#6 ∧ rsField w = 0#5 then .instr (k (codeField w) (rdField w))
  else .reject .reservedBits

/-- Formats JO1 and JI16. -/
def decodeJump (k : Cond → Operand → Instr) (w : Word) : Decoded :=
  if immFlagField w = 1#1 then .instr (k (condOfCode (codeField w)) (.imm (jumpValue (jumpField w))))
  else if midField w = 0#6 ∧ rdField w = 0#5 then .instr (k (condOfCode (codeField w)) (.reg (rsField w)))
  else .reject .reservedBits

/-- Formats O1 and I11 of `srieiw`. -/
def decodeMask (w : Word) : Decoded :=
  if immFlagField w = 1#1 then .instr (.srieiw (codeField w) (.imm (rdField w) (imm11Value (imm11Field w))))
  else decodeOne (fun a r => .srieiw a (.reg r)) w

/-- Format I11 alone, as `swi` has it. -/
def decodeSwi (w : Word) : Decoded :=
  if immFlagField w = 1#1 then .instr (.swi (codeField w) (rdField w) (.imm (imm11Value (imm11Field w))))
  else .reject .reservedBits

/-- Format C. -/
def decodeNone (i : Instr) (w : Word) : Decoded :=
  if immFlagField w = 0#1 ∧ codeField w = 0#4 ∧ midField w = 0#6 ∧ rdField w = 0#5 ∧ rsField w = 0#5 then .instr i
  else .reject .reservedBits

/-- The provisional decoder (R122, R123). -/
def decode (w : Word) : Decoded :=
  if w.extractLsb' 31 1 = 1#1 then .reject .bit31
  else
    match (opcodeField w).toNat with
    | 0x000 => decodeTwo .add w
    | 0x002 => decodeTwo .mul w
    | 0x006 => decodeTwo .cmp w
    | 0x040 => decodeTwo .shl w
    | 0x041 => decodeTwo .shr w
    | 0x067 => decodeTwo .test w
    | 0x06A => decodeImm16 .wl16 w
    | 0x076 => decodeImm16 .lil w
    | 0x077 => decodeImm16 .lih w
    | 0x080 => decodeTwo .ld8 w
    | 0x081 => decodeTwo .ld16 w
    | 0x082 => decodeTwo .ld32 w
    | 0x083 => decodeTwo .st8 w
    | 0x084 => decodeTwo .st16 w
    | 0x085 => decodeTwo .st32 w
    | 0x088 => decodeOne .push w
    | 0x089 => decodeNone .ppush w
    | 0x090 => decodeOne .pop w
    | 0x0A2 => decodeJump .branch w
    | 0x0A3 => decodeNone .ib w
    | 0x0C0 => decodeOne .srspr w
    | 0x0E0 => decodeOne .srspw w
    | 0x0E5 => decodeMask w
    | 0x0F0 => decodeOne .sridtw w
    | 0x103 => decodeTwo .movepc w
    | 0x120 => decodeSwi w
    | 0x122 => decodeNone .idts w
    | _ => .reject .opcode

/-! ### The platform's `decode` (R111) -/

/-- The registers of R176 that Type-E has. -/
def ReadReg.inTypeE : ReadReg → Bool
  | .psr | .idtr | .fi0r | .frclr | .frchr | .pflagr | .ppcr | .ppsr => true
  | .cpuidr | .coreidr | .tidr | .iosar | .pdtr | .kpdtr | .tisr | .fi1r | .ppdtr | .ptidr => false

/-- The registers of R177 that Type-E has. -/
def WriteReg.inTypeE : WriteReg → Bool
  | .psr | .frclr | .frchr | .pflagr | .ppcr | .ppsr => true
  | .tidr | .pdtr | .kpdtr | .tisr | .ppdtr | .ptidr => false

/-- Whether Type-E has the instruction: no AFE, no Type-S register, no software interrupt, no TLB flush, no sync
(R113, R121, R182; log 47). -/
def Instr.inTypeE : Instr → Bool
  | .add a _ _ => a == 0#4
  | .mul a _ _ => a == 0#4
  | .cmp a _ _ => a == 0#4
  | .shl a _ _ => a == 0#4
  | .shr a _ _ => a == 0#4
  | .test a _ _ => a == 0#4
  | .wl16 _ _ => true
  | .lil _ _ => true
  | .lih _ _ => true
  | .ld8 a _ _ => a == 0#4
  | .ld16 a _ _ => a == 0#4
  | .ld32 a _ _ => a == 0#4
  | .st8 a _ _ => a == 0#4
  | .st16 a _ _ => a == 0#4
  | .st32 a _ _ => a == 0#4
  | .push a _ => a == 0#4
  | .ppush => true
  | .pop a _ => a == 0#4
  | .branch _ _ => true
  | .ib => true
  | .srspr a _ => a == 0#4
  | .srspw a _ => a == 0#4
  | .srieiw a _ => a == 0#4
  | .sridtw a _ => a == 0#4
  | .movepc a _ _ => a == 0#4
  | .swi _ _ _ => false
  | .idts => true
  | .clw d => d.afe == 0#4
  | .srRegR r d => d.afe == 0#4 && r.inTypeE
  | .srRegW r _ => r.inTypeE
  | .frcrCopyOut => true
  | .frcrCopyIn => true
  | .tlbFlush => false
  | .sync => false

/-- The instruction the platform lists for a word, if it lists one. -/
def lookupWord (w : Word) : List (Word × Instr) → Option Instr
  | [] => none
  | (v, i) :: rest => if v = w then some i else lookupWord w rest

/-- The map from words to instructions before the processor type is looked at (R111). -/
def decodePlatform (c : Config) (w : Word) : Decoded :=
  match lookupWord w c.words with
  | some i => .instr i
  | none => if c.provisional then decode w else .reject .unmapped

/-- The parameter `decode` of the model (R111), which in Type-E does not map what Type-E lacks (R121). -/
def decodeFor (c : Config) (w : Word) : Decoded :=
  match decodePlatform c w with
  | .reject r => .reject r
  | .instr i => if c.procType = .typeE ∧ i.inTypeE = false then .reject .notInTypeE else .instr i

/-! ### Bytes and the opcode table -/

/-- The bytes of a word as memory holds them, most significant first (20_memory.md R62, R63). -/
def bytesOfWord (w : Word) : List Byte :=
  [w.extractLsb' 24 8, w.extractLsb' 16 8, w.extractLsb' 8 8, w.extractLsb' 0 8]

/-- The decoder on bytes, lowest address first (R110, R63). -/
def decodeBytes : List Byte → Decoded
  | b0 :: b1 :: b2 :: b3 :: _ => decode (b0 ++ b1 ++ b2 ++ b3)
  | _ => .reject .tooShort

/-- The word of an instruction whose bits, numbered as spec/opcode_table.json numbers them, are `w`. -/
def tableWord (nbits w : Nat) : Word := BitVec.ofNat 32 (w % 2 ^ nbits)

/-- The instruction the decoder reads from an instruction whose bits are `w`. -/
def decodeTableWord (nbits w : Nat) : Option Instr :=
  match decodeBytes (bytesOfWord (tableWord nbits w)) with
  | .instr i => some i
  | .reject _ => none

/-! ### The encoder (R122, R123) -/

/-- A word from its fields: bit 31 is 0, then opcode, bit 20, code, bits 15:10, Rd, Rs. -/
def assemble (op : BitVec 10) (flag : BitVec 1) (code : Code) (mid : BitVec 6) (rd rs : BitVec 5) : Word :=
  0#1 ++ op ++ flag ++ code ++ mid ++ rd ++ rs

/-- Formats O2 and I11. -/
def encodeTwo (op : BitVec 10) (afe : Code) (rd : Reg) : Operand → Word
  | .reg rs => assemble op 0#1 afe 0#6 rd rs
  | .imm v => assemble op 1#1 afe (v.extractLsb' 5 6) rd (v.extractLsb' 0 5)

/-- Format I16. -/
def encodeImm16 (op : BitVec 10) (rd : Reg) (v : BitVec 16) : Word :=
  assemble op (v.extractLsb' 15 1) (v.extractLsb' 11 4) (v.extractLsb' 5 6) rd (v.extractLsb' 0 5)

/-- Formats JO1 and JI16; the immediate counts words. -/
def encodeJump (op : BitVec 10) (cc : Cond) : Operand → Word
  | .reg rs => assemble op 0#1 (codeOfCond cc) 0#6 0#5 rs
  | .imm t => assemble op 1#1 (codeOfCond cc) (t.extractLsb' 12 6) (t.extractLsb' 7 5) (t.extractLsb' 2 5)

/-- Formats O1 and I11 of `srieiw`. -/
def encodeMask (op : BitVec 10) (afe : Code) : MaskOperand → Word
  | .reg rd => assemble op 0#1 afe 0#6 rd 0#5
  | .imm rd v => encodeTwo op afe rd (.imm v)

/-- Format I11 of `swi`; the provisional encoding has no register form (R123; log 59). -/
def encodeSwi (afe : Code) (rd : Reg) : Operand → Option Word
  | .reg _ => none
  | .imm v => some (encodeTwo 0x120 afe rd (.imm v))

/-- The word of an instruction; none for the seven abstract rows, which have no word, and for `swi` with a register
(R123). -/
def encode : Instr → Option Word
  | .add afe rd b => some (encodeTwo 0x000 afe rd b)
  | .mul afe rd b => some (encodeTwo 0x002 afe rd b)
  | .cmp afe rd b => some (encodeTwo 0x006 afe rd b)
  | .shl afe rd b => some (encodeTwo 0x040 afe rd b)
  | .shr afe rd b => some (encodeTwo 0x041 afe rd b)
  | .test afe rd b => some (encodeTwo 0x067 afe rd b)
  | .wl16 rd v => some (encodeImm16 0x06A rd v)
  | .lil rd v => some (encodeImm16 0x076 rd v)
  | .lih rd v => some (encodeImm16 0x077 rd v)
  | .ld8 afe rd ea => some (encodeTwo 0x080 afe rd ea)
  | .ld16 afe rd ea => some (encodeTwo 0x081 afe rd ea)
  | .ld32 afe rd ea => some (encodeTwo 0x082 afe rd ea)
  | .st8 afe rd ea => some (encodeTwo 0x083 afe rd ea)
  | .st16 afe rd ea => some (encodeTwo 0x084 afe rd ea)
  | .st32 afe rd ea => some (encodeTwo 0x085 afe rd ea)
  | .push afe rd => some (assemble 0x088 0#1 afe 0#6 rd 0#5)
  | .ppush => some (assemble 0x089 0#1 0#4 0#6 0#5 0#5)
  | .pop afe rd => some (assemble 0x090 0#1 afe 0#6 rd 0#5)
  | .branch cc t => some (encodeJump 0x0A2 cc t)
  | .ib => some (assemble 0x0A3 0#1 0#4 0#6 0#5 0#5)
  | .srspr afe rd => some (assemble 0x0C0 0#1 afe 0#6 rd 0#5)
  | .srspw afe rs => some (assemble 0x0E0 0#1 afe 0#6 rs 0#5)
  | .srieiw afe v => some (encodeMask 0x0E5 afe v)
  | .sridtw afe rs => some (assemble 0x0F0 0#1 afe 0#6 rs 0#5)
  | .movepc afe rd off => some (encodeTwo 0x103 afe rd off)
  | .swi afe rd n => encodeSwi afe rd n
  | .idts => some (assemble 0x122 0#1 0#4 0#6 0#5 0#5)
  | .clw _ => none
  | .srRegR _ _ => none
  | .srRegW _ _ => none
  | .frcrCopyOut => none
  | .frcrCopyIn => none
  | .tlbFlush => none
  | .sync => none

end Sys2Proof
end

