-- ==== Sys2Proof/Machine/Memory.lean ====
section
/-! DEFINITION. Memory as a list of (address, byte) pairs in one canonical form, and big-endian access to it
(20_memory.md R60, R62). Addresses are physical byte addresses. -/

namespace Sys2Proof.Machine

/-- The listed bytes of memory. -/
abbrev Memory := List Host.Cell

/-- What a byte that is not listed reads as. DESIGN CHOICE, unsafe: the spec gives no contents at reset (R265; log 23). -/
def Memory.unlisted : Byte := 0#8

/-- One byte. -/
def Memory.read : Memory → Nat → Byte
  | [], _ => Memory.unlisted
  | (x, b) :: rest, a => if x = a then b else Memory.read rest a

/-- Store one byte, keeping the canonical form. -/
def Memory.write : Memory → Nat → Byte → Memory
  | [], a, v => if v = Memory.unlisted then [] else [(a, v)]
  | (x, b) :: rest, a, v =>
    if a < x then (if v = Memory.unlisted then (x, b) :: rest else (a, v) :: (x, b) :: rest)
    else if a = x then (if v = Memory.unlisted then rest else (a, v) :: rest)
    else (x, b) :: Memory.write rest a v

/-- The canonical form from an address on: addresses strictly rising, no entry equal to what an unlisted byte reads as. -/
def Memory.wfFrom : Nat → Memory → Bool
  | _, [] => true
  | lo, (a, b) :: rest => decide (lo ≤ a) && (b != Memory.unlisted) && Memory.wfFrom (a + 1) rest

/-- The canonical form. -/
def Memory.wf (m : Memory) : Bool := Memory.wfFrom 0 m

/-- The value of the `n` bytes at `a`, the byte at `a` most significant (R62). -/
def Memory.readBE (m : Memory) (a : Nat) : Nat → Word
  | 0 => 0#32
  | n + 1 => (Memory.readBE m a n <<< 8) ||| (m.read (a + n)).zeroExtend 32

/-- Store the low `8 n` bits of `v` as the `n` bytes at `a`, most significant first (R62). -/
def Memory.writeBE (m : Memory) (a : Nat) : Nat → Word → Memory
  | 0, _ => m
  | n + 1, v => (Memory.writeBE m a n (v >>> 8)).write (a + n) (v.setWidth 8)

end Sys2Proof.Machine
end

