-- ==== Sys2Proof/Machine/Platform.lean ====
section
/-! DEFINITION. What the platform fixes for a run from reset: the values of the parameters of 00_scope.md section 4 and of
the registers whose reset value the spec does not give. Every value here is a DESIGN CHOICE or PRESUMED, none a rule of the
spec (log 2 to 5); a statement about every state does not depend on them. -/

namespace Sys2Proof.Machine

/-- RESET_PC. PRESUMED (K10: the project's simulator starts at address 0; log 3). -/
def Platform.resetPc : Word := 0#32

/-- The reset value of a register that R51 calls unspecified. DESIGN CHOICE, unsafe (log 4). -/
def Platform.unspecified : Word := 0#32

/-- IOSAR_VALUE. DESIGN CHOICE (log 5). -/
def Platform.iosarValue : Word := 0xFF000000#32

/-- CPUIDR_VALUE. DESIGN CHOICE (log 5). -/
def Platform.cpuidrValue : Word := 0#32

/-- COREIDR_VALUE. DESIGN CHOICE (log 5). -/
def Platform.coreidrValue : Word := 0#32

/-- The parameters for a run from reset. DESIGN CHOICE (log 2): Type-S; the spec's defaults for the stack discipline, the
IDT word order and the MMU modes; a value for each parameter that has no default. -/
def Platform.config : Config where
  procType := .typeS
  stack := .emptyDescending
  ppushOffset := 8#32
  lilExt := .sign
  arithFlags := .generate
  shiftBeyond := .refuse
  idtOrder := .hdlFirst
  userPrivFault := true
  memSize := 0xFF000000
  mmuMods := [0b10#2]
  mmuPageSizes := [0b001#3]
  sext8Code := none
  provisional := true
  words := []
  dpsRanges := []
  causeRegs := []

end Sys2Proof.Machine
end

