-- ==== Sys2Proof/Machine/State.lean ====
section
/-! DEFINITION. The state of the machine: every piece of state of spec/10_state.md, the machine's parameters, memory, and
four fields of the model's own; why a step can stop; the state after reset. -/

namespace Sys2Proof.Machine

/-- Why the machine stops with a fault. Every one is the spec's terminal fault, "never a good final state": safe. -/
inductive Fault where
  /-- A misaligned access, or a 1- or 2-byte access to the I/O region; raised by fetches, loads, stores and stack
  instructions (20_memory.md R66, D11). Safe. -/
  | alignmentViolation
  /-- Interrupt entry cannot be carried out; raised by interrupt entry (60_exceptions.md R220, D26). Safe. -/
  | doubleFault
  /-- In Type-E: a word that is no instruction, or an instruction that Type-E lacks (30_encoding.md R119, R121, D45).
  Safe. -/
  | typeEInvalid
  deriving DecidableEq, Repr

/-- Why the model gives a step no meaning. Every one but `notModelled` is a refusal that the spec itself orders. All are
safe: nothing can be proved of a run that reaches one. -/
inductive Refusal where
  /-- No meaning for the instruction yet; no arm of `exec` answers it. -/
  | notModelled (mnemonic : String)
  /-- An AFE code the platform gives no meaning; raised by instructions that carry one (44_afe.md R193, D3). Safe. -/
  | afeCode
  /-- A privileged instruction in User Mode, where USER_PRIV_FAULT is off (60_exceptions.md R233, D29). Safe. -/
  | privilegedInUserMode
  /-- `swi` with a number outside 64 to 127 (43_system.md R182, D43). Safe. -/
  | swiNumber
  /-- `sridtw` with a value that is no multiple of 8 (43_system.md R174, D22). Safe. -/
  | idtrAlignment
  /-- `idts` with a table that does not lie in memory (43_system.md R175). Safe. -/
  | idtNotInMemory
  /-- `idts` with interrupts enabled (93_implementation_defined.md U11). Safe. -/
  | idtsWithInterruptsEnabled
  /-- A shift by 32 or more, where the parameter `shiftBeyond` is `refuse` (40_arithmetic_compare.md R137, R138, D39,
  U28). Safe. -/
  | shiftAmount
  /-- A PSR write, by `sr<REG>w` or `ib`, of a reserved or unsupported value (R177, U4, U5, U7, U16). Safe. -/
  | psrReserved
  /-- A physical address at or above MEM_SIZE and below IOSAR; raised by any access (20_memory.md R92, U13). Safe. -/
  | unmappedAddress
  /-- An instruction fetch from the I/O region (20_memory.md R63, U31). Safe. -/
  | fetchFromIo
  /-- An instruction fetch of a byte the program has stored to (20_memory.md R74, U31). Safe. -/
  | fetchOfStoredBytes
  /-- Translation under a paging mode or page size that is not supported (20_memory.md R75). Safe. -/
  | unsupportedPaging
  /-- A first-level table base that is no multiple of the page size (20_memory.md R79, D16). Safe. -/
  | tableBase
  /-- A PTE whose address is not in memory (20_memory.md R92, D19). Safe. -/
  | tableNotInMemory
  /-- A PTE with a bit set between its page index and its flags (20_memory.md R80, R87, U8). Safe. -/
  | pteMiddleBits
  /-- PE set in a PTE other than a first-level one of 2-level mode (20_memory.md R87, U9). Safe. -/
  | pageExtension
  /-- A first-level PTE that points to a table and lacks PP = 11 or EX = 1 (20_memory.md R91, D18). Safe. -/
  | directoryRights
  /-- Use of a PTE that differs from what the TLB may hold of it (20_memory.md R98, U14). Safe. -/
  | staleTranslation
  /-- An access to a unit in state I0 other than the read of its cause register (60_exceptions.md R223, U19). Safe. -/
  | deviceInI0
  /-- A device request for a number outside 4 to 37 (93_implementation_defined.md U6). Safe. -/
  | reservedRequest
  deriving DecidableEq, Repr

/-- The interrupt state of DPS or GCI (60_exceptions.md R223); I0 remembers the number that was raised. -/
inductive UnitState where
  | s0
  | i0 (n : Nat)
  deriving DecidableEq, Repr

/-- A PTE that the TLB may hold: the ASID it was cached under, its address and its value (20_memory.md R98). -/
structure TlbEntry where
  asid : BitVec 14
  addr : Word
  pte : Word
  deriving DecidableEq, Repr

/-- One access made to the I/O region (60_exceptions.md R242). -/
inductive IoEvent where
  | load (addr : Word)
  | store (addr value : Word)
  deriving DecidableEq, Repr

/-- The state of the machine. -/
structure State where
  /-- The parameters of the model; no instruction changes them (00_scope.md section 4). -/
  cfg : Config
  /-- r0 to r31 (R10). -/
  gpr : Vector Word 32
  /-- Program counter (R12). -/
  pcr : Word
  /-- Flags SF OF CF PF ZF (R14). -/
  flagr : Flags
  /-- Stack pointer (R17). -/
  spr : Word
  /-- Program status (R19, R23). -/
  psr : Word
  /-- Processor ID, ROM (R24). -/
  cpuidr : Word
  /-- Core ID, ROM (R25). -/
  coreidr : Word
  /-- Task ID and ASID (R26). -/
  tidr : Word
  /-- Start of the I/O region (R27). -/
  iosar : Word
  /-- User page table base (R28). -/
  pdtr : Word
  /-- Kernel page table base (R29). -/
  kpdtr : Word
  /-- Task structure base (R30). -/
  tisr : Word
  /-- IDT base (R31). -/
  idtr : Word
  /-- Fault information 0 (R32). -/
  fi0r : Word
  /-- Fault information 1 (R33). -/
  fi1r : Word
  /-- Free-running counter (R35). -/
  frcr : BitVec 64
  /-- Its low buffer (R36). -/
  frclr : Word
  /-- Its high buffer (R36). -/
  frchr : Word
  /-- Previous flags (R38). -/
  pflagr : Flags
  /-- Previous program counter (R39). -/
  ppcr : Word
  /-- Previous program status (R40). -/
  ppsr : Word
  /-- Previous PDTR (R41). -/
  ppdtr : Word
  /-- Previous TIDR (R42). -/
  ptidr : Word
  /-- The processor's copy of the IDT flag words, entry 0 first; empty before the first `idts` (R47, R51). -/
  idtc : List Word
  /-- The PTEs the TLB may hold (R48, R98). -/
  tlb : List TlbEntry
  /-- Interrupt state of DPS (R49). -/
  dps : UnitState
  /-- Interrupt state of GCI (R49). -/
  gci : UnitState
  /-- Hardware requests not yet taken, rising (R210). -/
  pending : List Nat
  /-- Physical memory (R60). -/
  mem : Memory
  /-- The model's own: the requests devices make before each step to come (R210; log 27). -/
  arrivals : List (List Nat)
  /-- The model's own: accesses made to the I/O region, newest first (R242; log 25). -/
  ioLog : List IoEvent
  /-- The model's own: addresses the program has stored to, rising (R74; log 44). -/
  storedTo : List Nat
  /-- The model's own: how many free values have been drawn (log 53). -/
  draws : Nat
  deriving DecidableEq, Repr

/-- The machine right after reset (10_state.md R51, 70_reset_and_hazards.md R261). -/
def State.reset : State where
  cfg := Platform.config
  gpr := Vector.replicate 32 Platform.unspecified
  pcr := Platform.resetPc
  flagr := 0#5
  spr := Platform.unspecified
  psr := 0#32
  cpuidr := Platform.cpuidrValue
  coreidr := Platform.coreidrValue
  tidr := Platform.unspecified
  iosar := Platform.iosarValue
  pdtr := Platform.unspecified
  kpdtr := Platform.unspecified
  tisr := Platform.unspecified
  idtr := Platform.unspecified
  fi0r := Platform.unspecified
  fi1r := Platform.unspecified
  frcr := 0#64
  frclr := Platform.unspecified
  frchr := Platform.unspecified
  pflagr := 0#5
  ppcr := Platform.unspecified
  ppsr := Platform.unspecified
  ppdtr := Platform.unspecified
  ptidr := Platform.unspecified
  idtc := []
  tlb := []
  dps := .s0
  gci := .s0
  pending := []
  mem := []
  arrivals := []
  ioLog := []
  storedTo := []
  draws := 0

end Sys2Proof.Machine
end

