-- ==== Sys2Proof/Machine/Operands.lean ====
section
/-! DEFINITION. Reading and writing general registers, every operand form (30_encoding.md R112), the fields of the status
and task registers, and the AFE functions (44_afe.md). -/

namespace Sys2Proof.Machine

/-- Read a general register; none is hard-wired (10_state.md R11). -/
def State.reg (s : State) (r : Reg) : Word := s.gpr[r.toNat]'r.isLt

/-- Write a general register (10_state.md R11). -/
def State.setReg (s : State) (r : Reg) (v : Word) : State := { s with gpr := s.gpr.set r.toNat v r.isLt }

/-- The value of a second operand (R112). -/
def State.operand (s : State) : Operand → Word
  | .reg rs => s.reg rs
  | .imm v => v

/-- The value of the operand of `srieiw` (R173). -/
def State.maskOperand (s : State) : MaskOperand → Word
  | .reg rd => s.reg rd
  | .imm _ v => v

/-! ### Fields of PSR, TIDR and the ROM registers -/

/-- PSR.IM (R19). -/
def psrIm (p : Word) : Bool := p.getLsbD 2
/-- PSR.CMOD (R19). -/
def psrCmod (p : Word) : BitVec 2 := p.extractLsb' 5 2
/-- PSR.MMUMOD (20_memory.md R76). -/
def psrMmuMod (p : Word) : BitVec 2 := p.extractLsb' 0 2
/-- PSR.MMUPS (20_memory.md R77). -/
def psrMmuPs (p : Word) : BitVec 3 := p.extractLsb' 7 3

/-- PSR with IM replaced and every other bit kept (43_system.md R173). -/
def psrWithIm (p : Word) (im : Bool) : Word := if im then p ||| 0x00000004#32 else p &&& 0xFFFFFFFB#32

/-- PSR with CMOD = 00 and every other bit kept (60_exceptions.md R215, D20). -/
def psrKernel (p : Word) : Word := p &&& 0xFFFFFF9F#32

/-- TIDR.ASID (R26). -/
def tidrAsid (t : Word) : BitVec 14 := t.extractLsb' 18 14
/-- TIDR.TID (R26). -/
def tidrTid (t : Word) : BitVec 14 := t.extractLsb' 0 14

/-- CPUIDR.PID (R24). -/
def cpuidrPid (v : Word) : BitVec 26 := v.extractLsb' 6 26
/-- CPUIDR.PREV (R24). -/
def cpuidrPrev (v : Word) : BitVec 6 := v.extractLsb' 0 6
/-- COREIDR.CLKMAN (R25). -/
def coreidrClkMan (v : Word) : BitVec 12 := v.extractLsb' 20 12
/-- COREIDR.CLKEXP (R25). -/
def coreidrClkExp (v : Word) : BitVec 4 := v.extractLsb' 16 4
/-- COREIDR.COREID (R25). -/
def coreidrCoreId (v : Word) : BitVec 8 := v.extractLsb' 0 8

/-- Whether the machine is Type-S. -/
def State.isS (s : State) : Bool := s.cfg.procType == .typeS

/-- Whether privileged instructions are usable: Kernel Mode in Type-S, always in Type-E (43_system.md R183). -/
def State.kernel (s : State) : Bool := !s.isS || psrCmod s.psr == 0b00#2

/-- User Mode, as FI1R bit 2 and the page permissions see it (20_memory.md R90, R91). -/
def State.userMode (s : State) : Bool := psrCmod s.psr == 0b11#2

/-! ### AFE -/

/-- `#sext8-32`: bits 31:8 become copies of bit 7 (R193). -/
def sext8 (v : Word) : Word := (v.setWidth 8).signExtend 32

/-- What an AFE code does to a destination value (R190): `#none` is code 0 (R192), `#sext8-32` has the code the platform
gives it in Type-S (R193); any other code has no meaning. -/
def afeFunction (c : Config) (code : Code) : Option (Word → Word) :=
  if code = 0#4 then some fun v => v
  else if c.procType = .typeS ∧ c.sext8Code = some code then some sext8
  else none

/-- Run an instruction with its AFE's function, or refuse a code without a meaning (R193, D3). -/
def State.withAfe (s : State) (code : Code) (k : (Word → Word) → Host.Outcome State Fault Refusal) :
    Host.Outcome State Fault Refusal :=
  match afeFunction s.cfg code with
  | some g => k g
  | none => .refused .afeCode

/-- Sign extension of a 16-bit value, for `lil` (R153). -/
def lilValue (e : LilExt) (v : BitVec 16) : Word :=
  match e with
  | .zero => v.zeroExtend 32
  | .sign => v.signExtend 32

/-- The flags an arithmetic instruction leaves: what it generates, or 0 (R130). -/
def State.arithFlags (s : State) (f : Flags) : Flags :=
  match s.cfg.arithFlags with
  | .generate => f
  | .zero => 0#5

end Sys2Proof.Machine
end

