-- ==== Sys2Proof/Machine/Ops.lean ====
section
/-! DEFINITION. The named operations over the state: ending an instruction, taking an exception (60_exceptions.md R215), the
return from one (42_branch_control.md R163), the privilege check, the legal values of PSR, the stack pointer. -/

namespace Sys2Proof.Machine

/-- What a step answers. -/
abbrev Answer := Host.Outcome State Fault Refusal

/-- An interrupt to be entered: its number, and what entry writes to FI0R and FI1R (none: unchanged; R202). -/
structure Cause where
  number : Nat
  fi0 : Option Word
  fi1 : Option Word
  deriving DecidableEq, Repr

/-- The result of a part of an instruction: a value, a raised interrupt (with the state at that moment, which holds the A
and D flags already written, R222), or the end of the run. -/
inductive Res (α : Type) where
  | ok (v : α) (s : State)
  | raise (c : Cause) (s : State)
  | fault (f : Fault)
  | refuse (r : Refusal)

/-! ### Ending an instruction -/

/-- The end of an instruction that does not transfer control: FLAGR takes the flags it leaves (10_state.md R15) and PCR
advances by 4, mod 2^32 (R12, R13). -/
def State.retire (s : State) (f : Flags) : State := { s with flagr := f, pcr := s.pcr + 4#32 }

/-- The end of a jump: FLAGR becomes 0 and PCR the target (R160). -/
def State.jump (s : State) (t : Word) : State := { s with flagr := 0#5, pcr := t }

/-- One free value has been drawn (log 53). -/
def State.drawn (s : State) : State := { s with draws := s.draws + 1 }

/-! ### Sets of numbers, rising -/

/-- Insert a number. -/
def insertNat (n : Nat) : List Nat → List Nat
  | [] => [n]
  | m :: rest => if n < m then n :: m :: rest else if n = m then m :: rest else m :: insertNat n rest

/-- The members are strictly rising from a bound on. -/
def risingFrom : Nat → List Nat → Bool
  | _, [] => true
  | lo, n :: rest => decide (lo ≤ n) && risingFrom (n + 1) rest

/-! ### Physical memory -/

/-- One past the last byte of memory: I/O begins at IOSAR (Type-S), and memory ends at MEM_SIZE (20_memory.md R61, R92). -/
def State.ramTop (s : State) : Nat := if s.isS then min s.cfg.memSize s.iosar.toNat else s.cfg.memSize

/-- A 4-byte physical read, where its bytes are in memory (00_scope.md section 5, `PhysRead`). -/
def State.physRead (s : State) (a : Word) : Option Word :=
  if a.toNat + 4 ≤ s.ramTop then some (s.mem.readBE a.toNat 4) else none

/-! ### Taking an exception -/

/-- Valid bit of an IDT flag word (R204). -/
def idtValid (f : Word) : Bool := f.getLsbD 0
/-- Mask bit of an IDT flag word (R204). -/
def idtMask (f : Word) : Bool := f.getLsbD 1

/-- HDL_OFFSET (R205). -/
def hdlOffset : IdtWordOrder → Word
  | .hdlFirst => 0#32
  | .flagsFirst => 4#32

/-- FLAGS_OFFSET (R205). -/
def flagsOffset : IdtWordOrder → Word
  | .hdlFirst => 4#32
  | .flagsFirst => 0#32

/-- The physical address of the handler word of entry `n` (R205). -/
def State.hdlAddr (s : State) (n : Nat) : Word := s.idtr + BitVec.ofNat 32 (8 * n) + hdlOffset s.cfg.idtOrder

/-- The physical address of the flag word of entry `n` (R205). -/
def State.idtFlagsAddr (s : State) (n : Nat) : Word := s.idtr + BitVec.ofNat 32 (8 * n) + flagsOffset s.cfg.idtOrder

/-- The state after entry to interrupt `c.number` with return address `ret` and handler `h` (R215; Type-E: R226). -/
def State.entered (s : State) (c : Cause) (ret h : Word) : State :=
  { s with
    pflagr := s.flagr
    ppcr := ret
    ppsr := s.psr
    ppdtr := if s.isS then s.pdtr else s.ppdtr
    ptidr := if s.isS then s.tidr else s.ptidr
    fi0r := c.fi0.getD s.fi0r
    fi1r := if s.isS then c.fi1.getD s.fi1r else s.fi1r
    psr := if s.isS then psrKernel (psrWithIm s.psr false) else psrWithIm s.psr false
    flagr := 0#5
    pcr := h
    pending := if 4 ≤ c.number ∧ c.number ≤ 37 then s.pending.erase c.number else s.pending }

/-- Entry through an entry whose cached flag word is `f`, known to be valid: a masked entry or a handler word that is not
in memory is a double fault (R213, R215, R220). -/
def State.enterValid (s : State) (c : Cause) (ret f : Word) : Answer :=
  if idtMask f then
    match s.physRead (s.hdlAddr c.number) with
    | some h => .next (s.entered c ret h)
    | none => .fault .doubleFault
  else .fault .doubleFault

/-- Interrupt 43 in place of an interrupt whose vector is invalid (R212). -/
def invalidVector (n : Nat) : Cause := ⟨43, some (BitVec.ofNat 32 n), some (BitVec.ofNat 32 n)⟩

/-- TAKING AN EXCEPTION: enter interrupt `c.number` with return address `ret` (R215). An IDT copy that was never loaded,
an invalid entry 43 and a masked entry are double faults, which end the run (R220). -/
def State.enter (s : State) (c : Cause) (ret : Word) : Answer :=
  match s.idtc[c.number]? with
  | none => .fault .doubleFault
  | some f =>
    if idtValid f then s.enterValid c ret f
    else if c.number = 43 then .fault .doubleFault
    else
      match s.idtc[43]? with
      | none => .fault .doubleFault
      | some g => if idtValid g then s.enterValid (invalidVector c.number) ret g else .fault .doubleFault

/-- Continue with the value of a part of an instruction; a raised interrupt is entered with PCR as the return address,
since the part belongs to a fault (R217). -/
def Res.finish {α : Type} (x : Res α) (k : α → State → Answer) : Answer :=
  match x with
  | .ok v s => k v s
  | .raise c s => s.enter c s.pcr
  | .fault f => .fault f
  | .refuse r => .refused r

/-- Continue a part of an instruction with the next part. -/
def Res.bind {α β : Type} (x : Res α) (k : α → State → Res β) : Res β :=
  match x with
  | .ok v s => k v s
  | .raise c s => .raise c s
  | .fault f => .fault f
  | .refuse r => .refuse r

/-- Interrupt 42, an invalid instruction; Type-E has none and ends the run (30_encoding.md R119, D45). -/
def State.invalidInstruction (s : State) : Answer :=
  if s.isS then s.enter ⟨42, some s.pcr, some s.pcr⟩ s.pcr else .fault .typeEInvalid

/-- An instruction that only Type-S has (R121, D45). -/
def State.onlyS (s : State) (k : Answer) : Answer := if s.isS then k else .fault .typeEInvalid

/-- `priv()`: the privileged instructions run in Kernel Mode; in User Mode they take interrupt 41 with FI0R = PCR where
the parameter USER_PRIV_FAULT is on, and are refused where it is off (43_system.md R183, 60_exceptions.md R233). -/
def State.priv (s : State) (k : Answer) : Answer :=
  if s.kernel then k
  else if s.cfg.userPrivFault then s.enter ⟨41, some s.pcr, none⟩ s.pcr
  else .refused .privilegedInUserMode

/-! ### Legal values of PSR -/

/-- The page-table geometry of a paging mode and page size (20_memory.md R77, R78): the number of levels less one, the
width of the first index and the width of the offset. -/
structure Geometry where
  twoLevel : Bool
  firstBits : Nat
  offsetBits : Nat
  deriving DecidableEq, Repr

/-- The table of R78. -/
def geometry (mode : BitVec 2) (ps : BitVec 3) : Option Geometry :=
  match mode.toNat, ps.toNat with
  | 2, 1 => some ⟨true, 10, 12⟩
  | 2, 2 => some ⟨true, 8, 13⟩
  | 2, 3 => some ⟨true, 6, 14⟩
  | 2, 4 => some ⟨true, 4, 15⟩
  | 2, 5 => some ⟨true, 2, 16⟩
  | 1, 1 => some ⟨false, 15, 17⟩
  | 1, 2 => some ⟨false, 14, 18⟩
  | 1, 3 => some ⟨false, 13, 19⟩
  | 1, 4 => some ⟨false, 12, 20⟩
  | 1, 5 => some ⟨false, 11, 21⟩
  | _, _ => none

/-- The geometry in force for a supported paging mode and page size (R75). -/
def pagingOf (c : Config) (mode : BitVec 2) (ps : BitVec 3) : Option Geometry :=
  if c.mmuMods.contains mode && c.mmuPageSizes.contains ps then geometry mode ps else none

/-- Whether a page size is one that R77 names and the platform supports (R75). -/
def pageSizeOk (c : Config) (ps : BitVec 3) : Bool :=
  decide (1 ≤ ps.toNat) && decide (ps.toNat ≤ 5) && c.mmuPageSizes.contains ps

/-- The values PSR may hold: reserved bits 0, CMOD 00 or 11, paging off or a supported mode (R75, U4, U5, U7, U16). With
paging off MMUPS is 000, which R163's example has `ib` restore, or a supported size (log 35). Type-E: only IM (R23). -/
def psrLegal (c : Config) (p : Word) : Bool :=
  match c.procType with
  | .typeE => p &&& 0xFFFFFFFB#32 == 0#32
  | .typeS =>
    (p &&& 0xFFFFFC18#32 == 0#32) && (psrCmod p == 0b00#2 || psrCmod p == 0b11#2) &&
      (if psrMmuMod p = 0b00#2 then psrMmuPs p == 0b000#3 || pageSizeOk c (psrMmuPs p)
       else (pagingOf c (psrMmuMod p) (psrMmuPs p)).isSome)

/-- The values that `sr<REG>w` may write to PSR: what PSR may hold, but for MMUPS 000, which R177 and U4 refuse. -/
def psrWritable (c : Config) (p : Word) : Bool :=
  psrLegal c p && (c.procType == .typeE || psrMmuPs p != 0b000#3)

/-! ### Return from an exception -/

/-- RETURN FROM AN EXCEPTION: the live registers take their values from the Previous registers, all at once (R163). -/
def State.returned (s : State) : State :=
  { s with
    psr := s.ppsr
    flagr := s.pflagr
    pdtr := if s.isS then s.ppdtr else s.pdtr
    tidr := if s.isS then s.ptidr else s.tidr
    pcr := s.ppcr }

/-! ### The stack pointer (R149) -/

/-- The address a push stores to. -/
def State.pushAddr (s : State) : Word :=
  match s.cfg.stack with
  | .emptyDescending => s.spr
  | .emptyAscending => s.spr
  | .fullDescending => s.spr - 4#32

/-- SPR after a push. -/
def State.sprAfterPush (s : State) : Word :=
  match s.cfg.stack with
  | .emptyDescending => s.spr - 4#32
  | .emptyAscending => s.spr + 4#32
  | .fullDescending => s.spr - 4#32

/-- The address a pop loads from. -/
def State.popAddr (s : State) : Word :=
  match s.cfg.stack with
  | .emptyDescending => s.spr + 4#32
  | .emptyAscending => s.spr - 4#32
  | .fullDescending => s.spr

/-- SPR after a pop. -/
def State.sprAfterPop (s : State) : Word :=
  match s.cfg.stack with
  | .emptyDescending => s.spr + 4#32
  | .emptyAscending => s.spr - 4#32
  | .fullDescending => s.spr + 4#32

end Sys2Proof.Machine
end

