-- ==== Sys2Proof/Machine/Mmu.lean ====
section
/-! DEFINITION. Address translation and protection (20_memory.md R75 to R92) and the TLB (R98, R99). -/

namespace Sys2Proof.Machine

/-- What an access is for (R83, R91). -/
inductive Access where
  | fetch
  | read
  | write
  deriving DecidableEq, Repr

/-! ### Page flags (R81) -/

/-- Valid flag, bit 0. -/
def pteV (e : Word) : Bool := e.getLsbD 0
/-- Accessed flag, bit 1. -/
def pteA (e : Word) : Bool := e.getLsbD 1
/-- Dirty flag, bit 2. -/
def pteD (e : Word) : Bool := e.getLsbD 2
/-- Execution flag, bit 3. -/
def pteEX (e : Word) : Bool := e.getLsbD 3
/-- Page privilege flag, bits 5:4. -/
def ptePP (e : Word) : BitVec 2 := e.extractLsb' 4 2
/-- Global flag, bit 7. Bit 6 (CD) changes no rule, since caches are no state of the model (R85). -/
def pteG (e : Word) : Bool := e.getLsbD 7
/-- Page extension flag, bit 8. -/
def ptePE (e : Word) : Bool := e.getLsbD 8

/-- The low `k` bits set. -/
def lowMask (k : Nat) : Word := (1#32 <<< k) - 1#32

/-- The bits of a PTE between an index that starts at bit `k` and the flags, PTE[k-1:12], are 0 (R80, R87, U8). -/
def pteMiddleClear (k : Nat) (e : Word) : Bool := (e >>> 12) &&& lowMask (k - 12) == 0#32

/-- Physical address from the page index of a PTE and the low `k` bits of the logical address (R87, R88). -/
def pageAddr (k : Nat) (e va : Word) : Word := ((e >>> k) <<< k) ||| (va &&& lowMask k)

/-- Whether the flags of a PTE grant an access (R82, R83, R91). -/
def permits (user : Bool) (acc : Access) (e : Word) : Bool :=
  let readOk := !user || (ptePP e == 0b10#2 || ptePP e == 0b11#2)
  let writeOk := if user then ptePP e == 0b11#2 else ptePP e != 0b01#2
  match acc with
  | .read => readOk
  | .write => writeOk
  | .fetch => pteEX e && readOk

/-- A PTE with A set, and with D set if the access is a write to the page it maps (R84). -/
def pteTouched (final : Bool) (acc : Access) (e : Word) : Word :=
  if final && acc == .write then e ||| 0x00000006#32 else e ||| 0x00000002#32

/-- Page fault, interrupt 40 (R90): FI0R the logical address, FI1R the bits invalid, user, write, fetch. -/
def pageFault (user : Bool) (acc : Access) (va : Word) : Cause :=
  ⟨40, some va,
    some ((1#1 ++ BitVec.ofBool user ++ BitVec.ofBool (acc == .write) ++ BitVec.ofBool (acc == .fetch)).zeroExtend 32)⟩

/-- Privilege error, interrupt 41 (R91): FI0R the logical address, FI1R unchanged. -/
def privilegeError (va : Word) : Cause := ⟨41, some va, none⟩

/-! ### The TLB -/

/-- Whether an entry may be used now: its ASID is the current one, or its page is global (R86, R98). -/
def TlbEntry.usable (asid : BitVec 14) (t : TlbEntry) : Bool := t.asid == asid || pteG t.pte

/-- Whether the TLB may hold a usable copy of the PTE at `a` that differs from `e` (R98, U14). -/
def tlbStale (tlb : List TlbEntry) (asid : BitVec 14) (a e : Word) : Bool :=
  tlb.any fun t => t.addr == a && t.usable asid && t.pte != e

/-- A copy of the PTE `e` at `a` becomes `e'`, whatever ASID it was cached under: the hardware updates page table and TLB
at once (R84). A copy that a program's store has already left behind stays as it is, so that its use is refused (U14). -/
def TlbEntry.updated (t : TlbEntry) (a e e' : Word) : TlbEntry :=
  if t.addr == a && t.pte == e then { t with pte := e' } else t

/-- The TLB after the hardware has read the PTE `e` at `a`, which may now be cached under an ASID, and has made it `e'`
(R84, R98). -/
def tlbRecord (tlb : List TlbEntry) (asid : BitVec 14) (a e e' : Word) : List TlbEntry :=
  ⟨asid, a, e'⟩ :: (tlb.filter fun t => !(t.addr == a && t.asid == asid)).map fun t => t.updated a e e'

/-- An ordinary flush keeps the entries of global pages (R86, R180). -/
def tlbFlushed (tlb : List TlbEntry) : List TlbEntry := tlb.filter fun t => pteG t.pte

/-- Read the PTE at a physical address (R80), refusing an address outside memory (D19) and a PTE that a TLB copy may
contradict (U14). -/
def State.fetchPte (s : State) (a : Word) : Res Word :=
  match s.physRead a with
  | none => .refuse .tableNotInMemory
  | some e => if tlbStale s.tlb (tidrAsid s.tidr) a e then .refuse .staleTranslation else .ok e s

/-- Write a PTE back where its flags changed, and keep the TLB in step (R84, R98). -/
def State.writePte (s : State) (a e e' : Word) : State :=
  { s with
    mem := if e' = e then s.mem else s.mem.writeBE a.toNat 4 e'
    tlb := tlbRecord s.tlb (tidrAsid s.tidr) a e e' }

/-! ### Translation -/

/-- The end of a walk at its final PTE `e`, at address `a`: permission check, A and D, physical address (R84, R88, R91). A
valid PTE that does not permit the access may be cached as well (R98), though it is not written. -/
def State.finalPte (s : State) (va : Word) (acc : Access) (k : Nat) (a e : Word) : Res Word :=
  if pteMiddleClear k e = false then .refuse .pteMiddleBits
  else if permits s.userMode acc e = false then .raise (privilegeError va) (s.writePte a e e)
  else .ok (pageAddr k e va) (s.writePte a e (pteTouched true acc e))

/-- The second-level table that a first-level PTE points to (R88). -/
def tableOf (g : Geometry) (e : Word) : Word := (e >>> g.offsetBits) <<< g.offsetBits

/-- The address of the second-level PTE in a table: the second index is the bits between the first and the offset (R80,
R88). -/
def secondPteAddr (va : Word) (g : Geometry) (table : Word) : Word :=
  table + (((va >>> g.offsetBits) &&& lowMask (32 - g.firstBits - g.offsetBits)) <<< 2)

/-- The second level of a walk (R88). -/
def State.walkSecond (s : State) (va : Word) (acc : Access) (g : Geometry) (table : Word) : Res Word :=
  let a := secondPteAddr va g table
  (s.fetchPte a).bind fun e s1 =>
    if pteV e = false then .raise (pageFault s1.userMode acc va) s1
    else if ptePE e then .refuse .pageExtension
    else s1.finalPte va acc g.offsetBits a e

/-- The base of the first-level table: KPDTR in Kernel Mode, PDTR in User Mode (R79). -/
def State.tableBase (s : State) : Word := if psrCmod s.psr = 0b00#2 then s.kpdtr else s.pdtr

/-- The address of the first-level PTE (R80, R88, R89): the first index is the high `firstBits` bits. -/
def State.firstPteAddr (s : State) (va : Word) (g : Geometry) : Word :=
  s.tableBase + ((va >>> (32 - g.firstBits)) <<< 2)

/-- What a valid first-level PTE `e` of 2-level mode leads to: a page of extended size (R87), or a second-level table,
whose PTE gets A and never D (R84) and must carry PP = 11 and EX = 1 (D18). -/
def State.walkFirst (s : State) (va : Word) (acc : Access) (g : Geometry) (a e : Word) : Res Word :=
  if ptePE e then s.finalPte va acc (32 - g.firstBits) a e
  else if pteMiddleClear g.offsetBits e = false then .refuse .pteMiddleBits
  else if (ptePP e == 0b11#2 && pteEX e) = false then .refuse .directoryRights
  else
    (s.writePte a e (pteTouched false acc e)).walkSecond va acc g (tableOf g e)

/-- A table walk (R88; one level: R89). -/
def State.walk (s : State) (va : Word) (acc : Access) (g : Geometry) : Res Word :=
  if s.tableBase &&& lowMask g.offsetBits ≠ 0#32 then .refuse .tableBase
  else
    (s.fetchPte (s.firstPteAddr va g)).bind fun e s1 =>
      if pteV e = false then .raise (pageFault s1.userMode acc va) s1
      else if g.twoLevel then s1.walkFirst va acc g (s.firstPteAddr va g) e
      else if ptePE e then .refuse .pageExtension
      else s1.finalPte va acc g.offsetBits (s.firstPteAddr va g) e

/-- Physical address of a logical one (R76, R92): the address itself in Type-E or with paging off. -/
def State.translate (s : State) (va : Word) (acc : Access) : Res Word :=
  if s.isS = false ∨ psrMmuMod s.psr = 0b00#2 then .ok va s
  else
    match pagingOf s.cfg (psrMmuMod s.psr) (psrMmuPs s.psr) with
    | none => .refuse .unsupportedPaging
    | some g => s.walk va acc g

end Sys2Proof.Machine
end

