-- ==== Sys2Proof/Machine/MemAccess.lean ====
section
/-! DEFINITION. `MemRead`, `MemWrite` and the instruction fetch (20_memory.md R92), and the I/O region as an external agent
(60_exceptions.md R223, R242). -/

namespace Sys2Proof.Machine

/-- Whether a physical address is in the I/O region (R61). -/
def State.isIo (s : State) (pa : Word) : Bool := s.isS && decide (s.iosar.toNat ≤ pa.toNat)

/-! ### The I/O region -/

/-- The two units of the I/O region (R242). -/
inductive IoUnit where
  | dps
  | gci
  deriving DecidableEq, Repr

/-- The unit an I/O address belongs to (R242; the split is a parameter, N7). -/
def unitOfAddr (c : Config) (a : Word) : IoUnit :=
  if c.dpsRanges.any fun r => decide (r.1.toNat ≤ a.toNat) && decide (a.toNat ≤ r.2.toNat) then .dps else .gci

/-- The unit that raises a hardware interrupt number: 4 to 35 GCI, 36 and 37 DPS (R210). -/
def unitOfNumber (n : Nat) : IoUnit := if n ≤ 35 then .gci else .dps

/-- The interrupt state of a unit. -/
def State.unitState (s : State) : IoUnit → UnitState
  | .dps => s.dps
  | .gci => s.gci

/-- Change the interrupt state of a unit. -/
def State.setUnit (s : State) (u : IoUnit) (x : UnitState) : State :=
  match u with
  | .dps => { s with dps := x }
  | .gci => { s with gci := x }

/-- Whether an I/O address is the cause register of interrupt `n` (R223). -/
def isCauseReg (c : Config) (n : Nat) (a : Word) : Bool := c.causeRegs.contains (n, a)

/-- A load from the I/O region: an input of the model, entered in the log. In state I0 only the cause register may be
read, and that read releases the unit (R223, R242). -/
def State.ioLoad (s : State) (a : Word) : Res Word :=
  let u := unitOfAddr s.cfg a
  let done : State := { s with ioLog := .load a :: s.ioLog, draws := s.draws + 1 }
  match s.unitState u with
  | .s0 => .ok (Config.ioInput s.draws) done
  | .i0 n => if isCauseReg s.cfg n a then .ok (Config.ioInput s.draws) (done.setUnit u .s0) else .refuse .deviceInI0

/-- A store to the I/O region: an output event, refused while the unit is in state I0 (R223, R242). -/
def State.ioStore (s : State) (a v : Word) : Res Unit :=
  match s.unitState (unitOfAddr s.cfg a) with
  | .s0 => .ok () { s with ioLog := .store a v :: s.ioLog }
  | .i0 _ => .refuse .deviceInI0

/-! ### Loads and stores -/

/-- The width of a data access in bytes (R68). -/
inductive Width where
  | byte
  | half
  | word
  deriving DecidableEq, Repr

/-- The number of bytes of a width. -/
def Width.bytes : Width → Nat
  | .byte => 1
  | .half => 2
  | .word => 4

/-- The alignment of R64. -/
def aligned (a : Word) (w : Width) : Bool := a.toNat % w.bytes == 0

/-- A read of memory at a physical address (R92 steps 3 and 4), zero-extended (D10). -/
def State.readPhys (s : State) (pa : Word) (w : Width) : Res Word :=
  if s.isIo pa then (if w = .word then s.ioLoad pa else .fault .alignmentViolation)
  else if pa.toNat + w.bytes ≤ s.ramTop then .ok (s.mem.readBE pa.toNat w.bytes) s
  else .refuse .unmappedAddress

/-- The state after a store of `w` bytes to memory: the bytes, and the note of which addresses were stored to (R62, R74). -/
def State.stored (s : State) (pa : Word) (w : Width) (v : Word) : State :=
  { s with
    mem := s.mem.writeBE pa.toNat w.bytes v
    storedTo := (List.range w.bytes).foldl (fun l k => insertNat (pa.toNat + k) l) s.storedTo }

/-- A write of memory at a physical address (R92 steps 3 and 4). -/
def State.writePhys (s : State) (pa : Word) (w : Width) (v : Word) : Res Unit :=
  if s.isIo pa then (if w = .word then s.ioStore pa v else .fault .alignmentViolation)
  else if pa.toNat + w.bytes ≤ s.ramTop then .ok () (s.stored pa w v)
  else .refuse .unmappedAddress

/-- `MemRead(va, n)` (R92): alignment, translation and permission, then the access. -/
def State.memRead (s : State) (va : Word) (w : Width) : Res Word :=
  if aligned va w then (s.translate va .read).bind fun pa s1 => s1.readPhys pa w
  else .fault .alignmentViolation

/-- `MemWrite(va, n, v)` (R92). -/
def State.memWrite (s : State) (va : Word) (w : Width) (v : Word) : Res Unit :=
  if aligned va w then (s.translate va .write).bind fun pa s1 => s1.writePhys pa w v
  else .fault .alignmentViolation

/-! ### The instruction fetch -/

/-- The four bytes at a physical address, for a fetch: not from I/O (R63), and not a byte the program has stored to
(R74). -/
def State.fetchPhys (s : State) (pa : Word) : Res Word :=
  if s.isIo pa then .refuse .fetchFromIo
  else if pa.toNat + 4 ≤ s.ramTop then
    if (List.range 4).any fun k => s.storedTo.contains (pa.toNat + k) then .refuse .fetchOfStoredBytes
    else .ok (s.mem.readBE pa.toNat 4) s
  else .refuse .unmappedAddress

/-- The instruction fetch at PCR (R63, R92). -/
def State.fetch (s : State) : Res Word :=
  if aligned s.pcr .word then (s.translate s.pcr .fetch).bind fun pa s1 => s1.fetchPhys pa
  else .fault .alignmentViolation

end Sys2Proof.Machine
end

