-- ==== Sys2Proof/Machine/Boundary.lean ====
section
/-! DEFINITION. What happens between two instructions: devices make requests, FRCR advances, and a deliverable hardware
interrupt is taken (60_exceptions.md R210 to R214, R221). -/

namespace Sys2Proof.Machine

/-- A device requests interrupt `n`: the number becomes pending and, in Type-S, the unit goes from S0 to I0; a unit in I0
makes no new request (R210, R223; log 26, 27). DESIGN CHOICE: of two requests of one unit at one boundary the first of the
list is made and the other is not (log 60). -/
def State.request (s : State) (n : Nat) : State :=
  if s.isS then
    match s.unitState (unitOfNumber n) with
    | .s0 => { s.setUnit (unitOfNumber n) (.i0 n) with pending := insertNat n s.pending }
    | .i0 _ => s
  else { s with pending := insertNat n s.pending }

/-- The numbers that hardware may request (R201, R224). -/
def hardwareNumber (n : Nat) : Bool := decide (4 ≤ n) && decide (n ≤ 37)

/-- The requests that the schedule holds for this boundary. -/
def State.requestsNow (s : State) : List Nat := s.arrivals.headD []

/-- The state after the requests of this boundary. -/
def State.withRequests (s : State) : State :=
  s.requestsNow.foldl State.request { s with arrivals := s.arrivals.tail }

/-- FRCR counts on by an amount the model does not know, mod 2^64 (R35, D30). -/
def State.tick (s : State) : State := { s with frcr := s.frcr + Config.frcAdvance s.draws, draws := s.draws + 1 }

/-- Whether a pending request would be taken: its vector is valid and enabled, or invalid (then 43 is raised, R212), or
the IDT copy was never loaded (then entry ends the run, R220). A valid entry with Mask = 0 keeps the request waiting
(R213). -/
def State.deliverable (s : State) (n : Nat) : Bool :=
  match s.idtc[n]? with
  | none => true
  | some f => !idtValid f || idtMask f

/-- The hardware interrupt taken at this boundary: with IM = 1 the lowest-numbered deliverable request (R208, R211,
R221). -/
def State.boundary (s : State) : Option Nat :=
  if psrIm s.psr then s.pending.find? s.deliverable else none

/-- What entry to a hardware interrupt records: FI0R ← 0, FI1R unchanged (R202, R224). -/
def hardwareCause (n : Nat) : Cause := ⟨n, some 0#32, none⟩

end Sys2Proof.Machine
end

