-- ==== Sys2Proof/Machine/Flags.lean ====
section
/-! DEFINITION. Every flag computation (40_arithmetic_compare.md R131 to R133) and the condition codes
(30_encoding.md R115). -/

namespace Sys2Proof.Machine

/-- SF ++ OF ++ CF ++ PF ++ ZF (10_state.md R14). -/
def packFlags (sf ov cf pf zf : Bool) : Flags :=
  BitVec.ofBool sf ++ BitVec.ofBool ov ++ BitVec.ofBool cf ++ BitVec.ofBool pf ++ BitVec.ofBool zf

def flagSF (f : Flags) : Bool := f.getLsbD 4
def flagOF (f : Flags) : Bool := f.getLsbD 3
def flagCF (f : Flags) : Bool := f.getLsbD 2
def flagPF (f : Flags) : Bool := f.getLsbD 1
def flagZF (f : Flags) : Bool := f.getLsbD 0

/-- The flags of an addition (R131). -/
def flagsAdd (a b : Word) : Flags :=
  let r := a + b
  packFlags r.msb ((a.msb == b.msb) && (r.msb != a.msb)) (decide (2 ^ 32 ≤ a.toNat + b.toNat)) (!r.getLsbD 0) (r == 0#32)

/-- The flags of first operand − second operand; CF = 1 is "no borrow" (R132). -/
def flagsSub (a b : Word) : Flags :=
  let r := a - b
  packFlags r.msb ((a.msb != b.msb) && (r.msb != a.msb)) (decide (b.toNat ≤ a.toNat)) (!r.getLsbD 0) (r == 0#32)

/-- The flags of a result without carry or overflow of its own (R133, D6). -/
def flagsLogic (r : Word) : Flags :=
  packFlags r.msb false false (!r.getLsbD 0) (r == 0#32)

/-- The truth of a condition code on the flags (R115). -/
def condHolds (cc : Cond) (f : Flags) : Bool :=
  let sf := flagSF f; let ov := flagOF f; let cf := flagCF f; let pf := flagPF f; let zf := flagZF f
  match cc with
  | .al => true
  | .eq => zf
  | .neq => !zf
  | .mi => sf
  | .pl => !sf
  | .even => pf
  | .odd => !pf
  | .ovf => ov
  | .ueo => cf
  | .uu => !cf
  | .uo => cf && !zf
  | .ueu => !cf || zf
  | .seo => (sf && ov) || (!sf && !ov)
  | .su => (sf && !ov) || (!sf && ov)
  | .so => !((sf ^^ ov) || zf)
  | .seu => (sf ^^ ov) || zf

end Sys2Proof.Machine
end

