-- ==== Sys2Proof/Machine/Arith.lean ====
section
/-! DEFINITION. The compare, test and arithmetic instructions (40_arithmetic_compare.md). -/

namespace Sys2Proof.Machine

/-- The end of an arithmetic instruction: the destination takes the result after the AFE, FLAGR the flags of the result
before it (R130, R190; log 11). -/
def State.arithResult (s : State) (rd : Reg) (g : Word → Word) (r : Word) (f : Flags) : Answer :=
  .next ((s.setReg rd (g r)).retire (s.arithFlags f))

/-- A shift: within the width by `op`; by 32 or more refused, or with a free value as the result, as the parameter has it
(R137, R138, D39; log 13). -/
def State.shift (s : State) (afe : Code) (rd : Reg) (b : Operand) (op : Word → Nat → Word) : Answer :=
  s.withAfe afe fun g =>
    let n := (s.operand b).toNat
    if n < 32 then s.arithResult rd g (op (s.reg rd) n) (flagsLogic (op (s.reg rd) n))
    else if s.cfg.shiftBeyond = .refuse then .refused .shiftAmount
    else s.drawn.arithResult rd g (Config.shiftBeyondWidth s.draws) (flagsLogic (Config.shiftBeyondWidth s.draws))

/-- `cmp rd, b` (R134). -/
def execCmp (afe : Code) (rd : Reg) (b : Operand) (s : State) : Answer :=
  s.withAfe afe fun _ => .next (s.retire (flagsSub (s.reg rd) (s.operand b)))

/-- `test rd, b` (R135). PRESUMED: the operation is from general knowledge (K5; log 14). -/
def execTest (afe : Code) (rd : Reg) (b : Operand) (s : State) : Answer :=
  s.withAfe afe fun _ => .next (s.retire (flagsLogic (s.reg rd &&& s.operand b)))

/-- `add rd, b` (R136). -/
def execAdd (afe : Code) (rd : Reg) (b : Operand) (s : State) : Answer :=
  s.withAfe afe fun g => s.arithResult rd g (s.reg rd + s.operand b) (flagsAdd (s.reg rd) (s.operand b))

/-- `shl rd, b` (R137). -/
def execShl (afe : Code) (rd : Reg) (b : Operand) (s : State) : Answer :=
  s.shift afe rd b fun a n => a <<< n

/-- `shr rd, b`, zero fill (R138, D39). -/
def execShr (afe : Code) (rd : Reg) (b : Operand) (s : State) : Answer :=
  s.shift afe rd b fun a n => a >>> n

/-- `mul rd, b`, the low 32 bits (R139, D38). -/
def execMul (afe : Code) (rd : Reg) (b : Operand) (s : State) : Answer :=
  s.withAfe afe fun g => s.arithResult rd g (s.reg rd * s.operand b) (flagsLogic (s.reg rd * s.operand b))

/-- `clw rd` (R140, D40). That it may carry an AFE is the model's choice (log 57). -/
def execClw (d : Dest) (s : State) : Answer :=
  s.withAfe d.afe fun g => .next ((s.setReg d.rd (g 0#32)).retire 0#5)

end Sys2Proof.Machine
end

