-- ==== Sys2Proof/Machine/Branch.lean ====
section
/-! DEFINITION. The branch, the read of the program counter and the return from interrupt (42_branch_control.md). -/

namespace Sys2Proof.Machine

/-- `b target, #cc` (R160, R161). The condition is taken on FLAGR, which is 0 after an instruction that generates no flags
(10_state.md R15): the total reading that R160 records (log 12). -/
def execBranch (cc : Cond) (target : Operand) (s : State) : Answer :=
  if condHolds cc s.flagr then .next (s.jump (s.operand target)) else .next (s.retire 0#5)

/-- `movepc rd, off` (R162). DESIGN CHOICE: no source shows a register as the second operand; the model takes its value as
the offset (log 58). -/
def execMovepc (afe : Code) (rd : Reg) (off : Operand) (s : State) : Answer :=
  s.withAfe afe fun g => .next ((s.setReg rd (g (s.pcr + s.operand off))).retire 0#5)

/-- `ib` (R163): privileged; a PPSR that PSR may not hold is refused (U16; log 36). -/
def execIb (s : State) : Answer :=
  s.priv (if psrLegal s.cfg s.ppsr then .next s.returned else .refused .psrReserved)

end Sys2Proof.Machine
end

