-- ==== Sys2Proof/Machine/LoadStore.lean ====
section
/-! DEFINITION. The load, store, stack and load-immediate instructions (41_load_store_stack.md). None generates flags. -/

namespace Sys2Proof.Machine

/-- A load of a width from the address of an operand, zero-extended, with the AFE on the destination (R143 to R145). -/
def State.load (s : State) (afe : Code) (rd : Reg) (ea : Operand) (w : Width) : Answer :=
  s.withAfe afe fun g => (s.memRead (s.operand ea) w).finish fun v s1 => .next ((s1.setReg rd (g v)).retire 0#5)

/-- A store of the low bytes of the data register (R146 to R148). -/
def State.store (s : State) (afe : Code) (rd : Reg) (ea : Operand) (w : Width) : Answer :=
  s.withAfe afe fun _ => (s.memWrite (s.operand ea) w (s.reg rd)).finish fun _ s1 => .next (s1.retire 0#5)

/-- Push a word (R149): on a fault SPR does not change. -/
def State.pushWord (s : State) (v : Word) : Answer :=
  (s.memWrite s.pushAddr .word v).finish fun _ s1 => .next ({ s1 with spr := s.sprAfterPush }.retire 0#5)

/-- `ld8 rd, ea` (R143). -/
def execLd8 (afe : Code) (rd : Reg) (ea : Operand) (s : State) : Answer := s.load afe rd ea .byte

/-- `ld16 rd, ea` (R144). -/
def execLd16 (afe : Code) (rd : Reg) (ea : Operand) (s : State) : Answer := s.load afe rd ea .half

/-- `ld32 rd, ea` (R145). -/
def execLd32 (afe : Code) (rd : Reg) (ea : Operand) (s : State) : Answer := s.load afe rd ea .word

/-- `st8 rd, ea` (R146). -/
def execSt8 (afe : Code) (rd : Reg) (ea : Operand) (s : State) : Answer := s.store afe rd ea .byte

/-- `st16 rd, ea` (R147). -/
def execSt16 (afe : Code) (rd : Reg) (ea : Operand) (s : State) : Answer := s.store afe rd ea .half

/-- `st32 rd, ea` (R148). -/
def execSt32 (afe : Code) (rd : Reg) (ea : Operand) (s : State) : Answer := s.store afe rd ea .word

/-- `push rd` (R150). -/
def execPush (afe : Code) (rd : Reg) (s : State) : Answer :=
  s.withAfe afe fun _ => s.pushWord (s.reg rd)

/-- `ppush` (R152): push PCR + PPUSH_OFFSET. -/
def execPpush (s : State) : Answer := s.pushWord (s.pcr + s.cfg.ppushOffset)

/-- `pop rd` (R151). -/
def execPop (afe : Code) (rd : Reg) (s : State) : Answer :=
  s.withAfe afe fun g =>
    (s.memRead s.popAddr .word).finish fun v s1 => .next (({ s1 with spr := s.sprAfterPop }.setReg rd (g v)).retire 0#5)

/-- `lil rd, imm` (R153). -/
def execLil (rd : Reg) (imm : BitVec 16) (s : State) : Answer :=
  .next ((s.setReg rd (lilValue s.cfg.lilExt imm)).retire 0#5)

/-- `lih rd, imm` (R154, D7). -/
def execLih (rd : Reg) (imm : BitVec 16) (s : State) : Answer :=
  .next ((s.setReg rd (imm ++ 0#16)).retire 0#5)

/-- `wl16 rd, imm` (R155). -/
def execWl16 (rd : Reg) (imm : BitVec 16) (s : State) : Answer :=
  .next ((s.setReg rd ((s.reg rd).extractLsb' 16 16 ++ imm)).retire 0#5)

end Sys2Proof.Machine
end

