-- ==== Sys2Proof/Machine/System.lean ====
section
/-! DEFINITION. The system-register, interrupt-control, counter, TLB and synchronisation instructions (43_system.md). None
generates flags. -/

namespace Sys2Proof.Machine

/-- `srspr rd` (R171), both modes. -/
def execSrspr (afe : Code) (rd : Reg) (s : State) : Answer :=
  s.withAfe afe fun g => .next ((s.setReg rd (g s.spr)).retire 0#5)

/-- `srspw rs` (R172), both modes, no alignment check. -/
def execSrspw (afe : Code) (rs : Reg) (s : State) : Answer :=
  s.withAfe afe fun _ => .next ({ s with spr := s.reg rs }.retire 0#5)

/-- `srieiw v` (R173): PSR.IM takes bit 0 of the operand. -/
def execSrieiw (afe : Code) (v : MaskOperand) (s : State) : Answer :=
  s.withAfe afe fun _ =>
    s.priv (.next ({ s with psr := psrWithIm s.psr ((s.maskOperand v).getLsbD 0) }.retire 0#5))

/-- `sridtw rs` (R174): the copy of the IDT is not reloaded; a value that is no multiple of 8 is refused (D22). -/
def execSridtw (afe : Code) (rs : Reg) (s : State) : Answer :=
  s.withAfe afe fun _ =>
    s.priv (if (s.reg rs).toNat % 8 = 0 then .next ({ s with idtr := s.reg rs }.retire 0#5) else .refused .idtrAlignment)

/-- The flag words of `k` entries of the table in memory, from entry `n` on (R175). -/
def State.idtFlags (s : State) (n : Nat) : Nat → List Word
  | 0 => []
  | k + 1 => s.mem.readBE (s.idtFlagsAddr n).toNat 4 :: s.idtFlags (n + 1) k

/-- IDT_ENTRIES (R203). -/
def idtEntries : Nat := 2048

/-- `idts` (R175): the flag words of all 2048 entries, in one step (D23). The whole table must lie in memory (R175), and
interrupts must be disabled (U11). -/
def execIdts (s : State) : Answer :=
  s.priv
    (if psrIm s.psr then .refused .idtsWithInterruptsEnabled
     else if s.idtr.toNat + 8 * idtEntries ≤ s.ramTop then .next ({ s with idtc := s.idtFlags 0 idtEntries }.retire 0#5)
     else .refused .idtNotInMemory)

/-- `swi n` (R182): a trap, in both modes; the return address is PCR + 4 (R217, D21). Type-S only. DESIGN CHOICE: the
number is an immediate or the value of a register, which R182 leaves open (log 59). -/
def execSwi (afe : Code) (_rd : Reg) (n : Operand) (s : State) : Answer :=
  s.onlyS (s.withAfe afe fun _ =>
    if 64 ≤ (s.operand n).toNat ∧ (s.operand n).toNat ≤ 127 then s.enter ⟨(s.operand n).toNat, none, none⟩ (s.pcr + 4#32)
    else .refused .swiNumber)

/-- The value that the read instruction of a system register gives (R176). -/
def State.readSys (s : State) : ReadReg → Word
  | .psr => s.psr
  | .cpuidr => s.cpuidr
  | .coreidr => s.coreidr
  | .tidr => s.tidr
  | .iosar => s.iosar
  | .pdtr => s.pdtr
  | .kpdtr => s.kpdtr
  | .tisr => s.tisr
  | .idtr => s.idtr
  | .fi0r => s.fi0r
  | .fi1r => s.fi1r
  | .frclr => s.frclr
  | .frchr => s.frchr
  | .pflagr => s.pflagr.zeroExtend 32
  | .ppcr => s.ppcr
  | .ppsr => s.ppsr
  | .ppdtr => s.ppdtr
  | .ptidr => s.ptidr

/-- The system registers that both modes may read (R183). -/
def bothModes : ReadReg → Bool
  | .cpuidr | .coreidr | .iosar | .frclr | .frchr => true
  | .psr | .tidr | .pdtr | .kpdtr | .tisr | .idtr | .fi0r | .fi1r | .pflagr | .ppcr | .ppsr | .ppdtr | .ptidr => false

/-- Write a system register (R177). PSR is checked by the instruction. -/
def State.writeSys (s : State) (r : WriteReg) (v : Word) : State :=
  match r with
  | .psr => { s with psr := v }
  | .tidr => { s with tidr := v }
  | .pdtr => { s with pdtr := v }
  | .kpdtr => { s with kpdtr := v }
  | .tisr => { s with tisr := v }
  | .frclr => { s with frclr := v }
  | .frchr => { s with frchr := v }
  | .pflagr => { s with pflagr := v.setWidth 5 }
  | .ppcr => { s with ppcr := v }
  | .ppsr => { s with ppsr := v }
  | .ppdtr => { s with ppdtr := v }
  | .ptidr => { s with ptidr := v }

/-- `sr<REG>r rd` (R176). That it may carry an AFE is the model's choice (log 57). -/
def execSrRegR (r : ReadReg) (d : Dest) (s : State) : Answer :=
  if s.isS || r.inTypeE then
    s.withAfe d.afe fun g =>
      if bothModes r then .next ((s.setReg d.rd (g (s.readSys r))).retire 0#5)
      else s.priv (.next ((s.setReg d.rd (g (s.readSys r))).retire 0#5))
  else .fault .typeEInvalid

/-- `sr<REG>w rs` (R177). A PSR value that is reserved or not supported is refused (U4, U5, U7). -/
def execSrRegW (r : WriteReg) (rs : Reg) (s : State) : Answer :=
  if s.isS || r.inTypeE then
    s.priv (if r = .psr ∧ psrWritable s.cfg (s.reg rs) = false then .refused .psrReserved
            else .next ((s.writeSys r (s.reg rs)).retire 0#5))
  else .fault .typeEInvalid

/-- FRCR copy-out (R178), both modes: one sample, high half to FRCHR and low half to FRCLR. -/
def execFrcrCopyOut (s : State) : Answer :=
  .next ({ s with frchr := s.frcr.extractLsb' 32 32, frclr := s.frcr.extractLsb' 0 32 }.retire 0#5)

/-- FRCR copy-in (R179). -/
def execFrcrCopyIn (s : State) : Answer :=
  s.priv (.next ({ s with frcr := s.frchr ++ s.frclr }.retire 0#5))

/-- TLB flush (R180), Type-S: entries of pages that are not global are discarded. -/
def execTlbFlush (s : State) : Answer :=
  s.onlyS (s.priv (.next ({ s with tlb := tlbFlushed s.tlb }.retire 0#5)))

/-- `sync` (R181), Type-S, both modes: every earlier access is already complete, so it is a no-operation (D13). -/
def execSync (s : State) : Answer := s.onlyS (.next (s.retire 0#5))

end Sys2Proof.Machine
end

