-- ==== Sys2Proof/Machine/Dispatch.lean ====
section
/-! DEFINITION. One arm per instruction. -/

namespace Sys2Proof.Machine

def exec (i : Instr) (s : State) : Host.Outcome State Fault Refusal :=
  match i with
  | .add afe rd b => Sys2Proof.Machine.execAdd afe rd b s
  | .mul afe rd b => Sys2Proof.Machine.execMul afe rd b s
  | .cmp afe rd b => Sys2Proof.Machine.execCmp afe rd b s
  | .shl afe rd b => Sys2Proof.Machine.execShl afe rd b s
  | .shr afe rd b => Sys2Proof.Machine.execShr afe rd b s
  | .test afe rd b => Sys2Proof.Machine.execTest afe rd b s
  | .wl16 rd imm => Sys2Proof.Machine.execWl16 rd imm s
  | .lil rd imm => Sys2Proof.Machine.execLil rd imm s
  | .lih rd imm => Sys2Proof.Machine.execLih rd imm s
  | .ld8 afe rd ea => Sys2Proof.Machine.execLd8 afe rd ea s
  | .ld16 afe rd ea => Sys2Proof.Machine.execLd16 afe rd ea s
  | .ld32 afe rd ea => Sys2Proof.Machine.execLd32 afe rd ea s
  | .st8 afe rd ea => Sys2Proof.Machine.execSt8 afe rd ea s
  | .st16 afe rd ea => Sys2Proof.Machine.execSt16 afe rd ea s
  | .st32 afe rd ea => Sys2Proof.Machine.execSt32 afe rd ea s
  | .push afe rd => Sys2Proof.Machine.execPush afe rd s
  | .ppush => Sys2Proof.Machine.execPpush s
  | .pop afe rd => Sys2Proof.Machine.execPop afe rd s
  | .branch cc target => Sys2Proof.Machine.execBranch cc target s
  | .ib => Sys2Proof.Machine.execIb s
  | .srspr afe rd => Sys2Proof.Machine.execSrspr afe rd s
  | .srspw afe rs => Sys2Proof.Machine.execSrspw afe rs s
  | .srieiw afe v => Sys2Proof.Machine.execSrieiw afe v s
  | .sridtw afe rs => Sys2Proof.Machine.execSridtw afe rs s
  | .movepc afe rd off => Sys2Proof.Machine.execMovepc afe rd off s
  | .swi afe rd n => Sys2Proof.Machine.execSwi afe rd n s
  | .idts => Sys2Proof.Machine.execIdts s
  | .clw rd => Sys2Proof.Machine.execClw rd s
  | .srRegR reg rd => Sys2Proof.Machine.execSrRegR reg rd s
  | .srRegW reg rs => Sys2Proof.Machine.execSrRegW reg rs s
  | .frcrCopyOut => Sys2Proof.Machine.execFrcrCopyOut s
  | .frcrCopyIn => Sys2Proof.Machine.execFrcrCopyIn s
  | .tlbFlush => Sys2Proof.Machine.execTlbFlush s
  | .sync => Sys2Proof.Machine.execSync s

end Sys2Proof.Machine
end

