-- ==== Sys2Proof/Machine/Cycle.lean ====
section
/-! DEFINITION. The instruction cycle (00_scope.md R4). -/

namespace Sys2Proof.Machine

/-- Run the instruction that a fetched word is, or take interrupt 42 for a word that is none (R4 steps 3 to 6, R119). -/
def State.runWord (s : State) (w : Word) : Answer :=
  match decodeFor s.cfg w with
  | .instr i => exec i s
  | .reject _ => s.invalidInstruction

/-- Fetch, decode and execute the instruction at PCR (R4 steps 2 to 6). -/
def State.runNext (s : State) : Answer := s.fetch.finish fun w s1 => s1.runWord w

/-- The state at the boundary before an instruction: the requests of the schedule have arrived and FRCR has counted on. -/
def State.atBoundary (s : State) : State := s.withRequests.tick

/-- One cycle (R4): a deliverable hardware interrupt is taken, and nothing else (R211); otherwise the next instruction
runs. A request for a number that no device has is refused (U6). -/
def State.cycle (s : State) : Answer :=
  if s.requestsNow.all hardwareNumber then
    match s.atBoundary.boundary with
    | some n => s.atBoundary.enter (hardwareCause n) s.atBoundary.pcr
    | none => s.atBoundary.runNext
  else .refused .reservedRequest

end Sys2Proof.Machine
end

