-- ==== Sys2Proof/Machine/Place.lean ====
section
/-! DEFINITION. Loading from outside the machine: the platform puts a word where the next instruction is fetched
(70_reset_and_hazards.md R262). -/

namespace Sys2Proof.Machine

/-- The physical address that the next fetch reads, where translation finds one, else PCR itself. -/
def State.fetchAddr (s : State) : Word :=
  match s.translate s.pcr .fetch with
  | .ok pa _ => pa
  | _ => s.pcr

/-- The platform stores the four bytes of a word where the next instruction is fetched. It is no store of the program, so
the bytes are not noted as stored to, and a note of them is taken away (R74; log 6). -/
def State.placed (s : State) (w : Word) : State :=
  let a := s.fetchAddr.toNat
  { s with
    mem := s.mem.writeBE a 4 w
    storedTo := s.storedTo.filter fun x => decide (x < a) || decide (a + 4 ≤ x) }

end Sys2Proof.Machine
end

