-- ==== Sys2Proof/Machine/Step.lean ====
section
/-! DEFINITION. One step of the core, and the word that the next step runs. -/

namespace Sys2Proof.Machine

/-- One step of the core (00_scope.md R4). -/
def step (s : State) : Host.Outcome State Fault Refusal := s.cycle

/-- `s` with an instruction stored where `step` fetches its next one (R262: the platform loads the program; log 6). -/
def State.withFetchWord (s : State) (nbits w : Nat) : State := s.placed (tableWord nbits w)

end Sys2Proof.Machine
end

