-- ==== Sys2Proof/Assembler.lean ====
section
/-! DEFINITION. The names that assembly text uses for registers and condition codes (10_state.md R11, 30_encoding.md R116),
and the operators `hi` and `lo` (R118). No instruction's meaning uses this file. -/

namespace Sys2Proof

/-- Alias of r7, the register for the compiler (R11). -/
def rtmp : Reg := 7#5
/-- Alias of r29, the global pointer (R11). -/
def rglobl : Reg := 29#5
/-- Alias of r30, the frame base pointer (R11). -/
def rbase : Reg := 30#5
/-- Alias of r31, the return address (R11). -/
def rret : Reg := 31#5

/-- `hi(x)`, the high 16 bits (R118). -/
def hi (x : Word) : BitVec 16 := x.extractLsb' 16 16
/-- `lo(x)`, the low 16 bits (R118). -/
def lo (x : Word) : BitVec 16 := x.extractLsb' 0 16

/-- The names of the condition codes, in upper case: the columns CC1, CC2 and CC3 of R115. -/
def condNames : List (String × Cond) :=
  [("AL", .al), ("EQ", .eq), ("Z", .eq), ("NEQ", .neq), ("NZ", .neq), ("NE", .neq), ("MI", .mi), ("PL", .pl), ("EN", .even),
   ("ON", .odd), ("OVF", .ovf), ("UEO", .ueo), ("C", .ueo), ("GEU", .ueo), ("UU", .uu), ("NC", .uu), ("LTU", .uu),
   ("UO", .uo), ("GTU", .uo), ("UEU", .ueu), ("LEU", .ueu), ("SEO", .seo), ("GE", .seo), ("SU", .su), ("LT", .su),
   ("SO", .so), ("GT", .so), ("SEU", .seu), ("LE", .seu)]

/-- The condition code that a name in either letter case stands for (R116). -/
def condOfName (name : String) : Option Cond := condNames.lookup name.toUpper

end Sys2Proof
end

