-- ==== Sys2Proof/Machine/Tst.lean ====
section
/-! DEFINITION. The layout of the task structure table (60_exceptions.md R250 to R253, R255). The table is plain memory: no
step reads or writes it by itself, since task switching is not specified (R256; log 49). -/

namespace Sys2Proof.Machine

/-- Offset of the first byte of the queue, queue entry 0, in the table (R251). -/
def tstQueueOffset : Nat := 0x00000000
/-- Offset of the last byte of the queue, as printed (R251). -/
def tstQueueLast : Nat := 0x000003FF
/-- The queue entries are numbered 0 to 127 (R251). -/
def tstQueueEntries : Nat := 128
/-- Offset of the first byte of the task structures, that of structure 0 (R251). -/
def tstTasksOffset : Nat := 0x00000400
/-- Offset of the end of the task structures, as printed; it fits no stride (R251, C15). -/
def tstTasksLast : Nat := 0x00260190
/-- The task structures are numbered 0 to 16383, as TIDs are (R251, R252). -/
def tstTaskStructures : Nat := 16384

/-- The physical address of an offset in the table, which lies where TISR points (R250, R251). -/
def State.tstAddr (s : State) (offset : Nat) : Nat := s.tisr.toNat + offset
/-- The word of the table at an offset (R250; big-endian by R62). -/
def State.tstWord (s : State) (offset : Nat) : Word := s.mem.readBE (s.tstAddr offset) 4

/-- Where in the table an offset lies (R251). -/
inductive TstPart where
  | queue
  | tasks
  deriving DecidableEq, Repr

/-- The part of the table that an offset belongs to, none outside the table (R251). -/
def tstPart (offset : Nat) : Option TstPart :=
  if tstQueueOffset ≤ offset ∧ offset ≤ tstQueueLast then some .queue
  else if tstTasksOffset ≤ offset ∧ offset ≤ tstTasksLast then some .tasks
  else none

/-- Queue entry 0; the stride to the next one is open (R251, C15). -/
def State.queueEntry0 (s : State) : Word := s.tstWord tstQueueOffset

/-- A queue entry is valid (R252). -/
def queueV (e : Word) : Bool := e.getLsbD 31
/-- The task of a queue entry waits to be executed (R252). -/
def queueE (e : Word) : Bool := e.getLsbD 30
/-- The task that a queue entry names (R252). -/
def queueTid (e : Word) : BitVec 14 := e.extractLsb' 0 14

/-- The task of a TASK_INF word is valid (R255). -/
def taskV (e : Word) : Bool := e.getLsbD 31
/-- The priority in a TASK_INF word, 0 the lowest (R255). -/
def taskPriority (e : Word) : BitVec 2 := e.extractLsb' 29 2

/-- The fields of a task structure (R253). -/
inductive TaskField where
  | taskInf
  | gr (r : Reg)
  | pcr
  | sprUser
  | sprKernel
  | pdt
  | psr
  | flagr
  deriving DecidableEq, Repr

/-- The offset of a field's four bytes in its structure (R253). -/
def TaskField.offset : TaskField → Nat
  | .taskInf => 0x00
  | .gr r => 0x04 + 4 * r.toNat
  | .pcr => 0x84
  | .sprUser => 0x88
  | .sprKernel => 0x8C
  | .pdt => 0x90
  | .psr => 0x94
  | .flagr => 0x98

/-- The word of a field of the task structure at a physical address (R253). -/
def State.taskWord (s : State) (base : Nat) (f : TaskField) : Word := s.mem.readBE (base + f.offset) 4

/-- The word of a field of task structure 0 of the table at TISR (R250, R251, R253). -/
def State.task0Word (s : State) (f : TaskField) : Word := s.taskWord (s.tstAddr tstTasksOffset) f

end Sys2Proof.Machine
end

