-- ==== Sys2Proof/Safety.lean ====
section
/-! DEFINITION. What counts as a good state and a safe run, in the terms the statements use. -/

namespace Sys2Proof.Machine

/-- A good state: memory is in its canonical form, PSR holds a value it may hold (R163, R177; log 35), the IDT copy is
absent or whole (R175), pending requests are hardware numbers, each once, lowest first (R210), and the note of stored
addresses is a set. -/
structure State.Good (s : State) : Prop where
  mem : s.mem.wf = true
  psr : psrLegal s.cfg s.psr = true
  idtc : s.idtc = [] ∨ s.idtc.length = idtEntries
  pending : risingFrom 4 s.pending = true ∧ ∀ n ∈ s.pending, n ≤ 37
  storedTo : risingFrom 0 s.storedTo = true

/-- `n` steps from a state all answer a next state. -/
def State.runsFor (s : State) (n : Nat) : Prop := ∃ t, Sys2Proof.core.run n s = .next t

/-- The outcome is a fault: the run ended in a way the spec never calls a good final state. -/
def faulted (o : Host.Outcome State Fault Refusal) : Prop := ∃ f, o = .fault f

/-- What interrupt entry leaves, whatever the interrupt: the interrupted context is in the Previous registers, interrupts
are masked, the mode is Kernel (in Type-S) and the flags are 0 (60_exceptions.md R215). -/
structure State.EnteredFrom (s t : State) : Prop where
  pflagr : t.pflagr = s.flagr
  ppsr : t.ppsr = s.psr
  ppdtr : t.ppdtr = if s.isS then s.pdtr else s.ppdtr
  ptidr : t.ptidr = if s.isS then s.tidr else s.ptidr
  masked : psrIm t.psr = false
  kernel : t.kernel = true
  flagr : t.flagr = 0#5

/-- An instruction that writes one general register and no memory: the register takes `v`, FLAGR takes `f`, PCR advances
by 4, and every other piece of state, every byte of memory among them, is as before. -/
structure State.WroteReg (s t : State) (rd : Reg) (v : Word) (f : Flags) : Prop where
  value : t.reg rd = v
  others : ∀ r, r ≠ rd → t.reg r = s.reg r
  flags : t.flagr = f
  next : t.pcr = s.pcr + 4#32
  memory : ∀ a, t.mem.read a = s.mem.read a
  rest : t = { s with gpr := t.gpr, flagr := t.flagr, pcr := t.pcr }

/-- No address translation: Type-E, or paging off (20_memory.md R76, R92). -/
def State.pagingOff (s : State) : Prop := s.isS = false ∨ psrMmuMod s.psr = 0b00#2

/-- An aligned access of a width at an address that is memory, with paging off (20_memory.md R92). -/
structure State.PlainAccess (s : State) (ea : Word) (w : Width) : Prop where
  pagingOff : s.pagingOff
  aligned : ea.toNat % w.bytes = 0
  memory : s.isIo ea = false
  inside : ea.toNat + w.bytes ≤ s.ramTop

/-- The vector of interrupt `n` is valid and enabled in the IDT copy, and its handler word, in memory, is `h` (R204,
R205). -/
structure State.Vector (s : State) (n : Nat) (h : Word) : Prop where
  flags : ∃ f, s.idtc[n]? = some f ∧ f.getLsbD 0 = true ∧ f.getLsbD 1 = true
  handler : s.physRead (s.hdlAddr n) = some h

/-- Nothing is taken at this boundary: the devices request only numbers they have, and no request is deliverable (R211).
-/
structure State.Undisturbed (s : State) : Prop where
  requests : s.requestsNow.all hardwareNumber = true
  nothingTaken : s.atBoundary.boundary = none

/-- With paging off, the next fetch reads the word `w`: PCR is aligned and in memory, and no byte there was stored to by
the program (R63, R74, R92). -/
structure State.PlainFetch (s : State) (w : Word) : Prop where
  undisturbed : s.Undisturbed
  pagingOff : s.pagingOff
  aligned : s.pcr.toNat % 4 = 0
  memory : s.isIo s.pcr = false
  inside : s.pcr.toNat + 4 ≤ s.ramTop
  notStored : ∀ k, k < 4 → s.pcr.toNat + k ∉ s.storedTo
  word : w = s.mem.read s.pcr.toNat ++ s.mem.read (s.pcr.toNat + 1) ++ s.mem.read (s.pcr.toNat + 2) ++
    s.mem.read (s.pcr.toNat + 3)

/-- An aligned access of a width whose translation ends at `pa`, which is memory, and leaves `s1` (R92). -/
structure State.Translated (s : State) (va : Word) (acc : Access) (w : Width) (pa : Word) (s1 : State) : Prop where
  aligned : va.toNat % w.bytes = 0
  translation : s.translate va acc = .ok pa s1
  memory : s.isIo pa = false
  inside : pa.toNat + w.bytes ≤ s.ramTop

/-- The `n` bytes of memory at `a` hold the low `8 n` bits of `v`, most significant first (R62). -/
def HoldsBytes (m : Memory) (a n : Nat) (v : Word) : Prop :=
  ∀ k, k < n → m.read (a + k) = v.extractLsb' (8 * (n - 1 - k)) 8

/-- Every byte of memory but the `n` bytes at `a` reads as before. -/
def SameOutside (m m' : Memory) (a n : Nat) : Prop := ∀ b, b < a ∨ a + n ≤ b → m'.read b = m.read b

/-- The addresses of the PTEs that the translation of `va` reads and may write back: none with paging off; that of the
first PTE; and, in 2-level mode, that of the second, in the table the first PTE points to unless it maps a page of
extended size (R80, R84, R87, R88, R89). -/
def State.pteAddrs (s : State) (va : Word) : List Word :=
  if s.isS = false ∨ psrMmuMod s.psr = 0b00#2 then []
  else
    match pagingOf s.cfg (psrMmuMod s.psr) (psrMmuPs s.psr) with
    | none => []
    | some g =>
      let e := s.mem.readBE (s.firstPteAddr va g).toNat 4
      s.firstPteAddr va g :: if g.twoLevel && !ptePE e then [secondPteAddr va g (tableOf g e)] else []

/-- Nothing has changed but the TLB and, in memory, the four bytes of PTEs at some addresses; with paging off, nothing at
all (R84). -/
structure State.OnlyPtes (s t : State) (l : List Word) : Prop where
  rest : t = { s with mem := t.mem, tlb := t.tlb }
  memory : ∀ b, (∀ a ∈ l, b < a.toNat ∨ a.toNat + 4 ≤ b) → t.mem.read b = s.mem.read b
  off : s.pagingOff → t = s

/-- An aligned word access whose translation ends at `pa`, which is in the I/O region, and leaves `s1` (R65, R92). -/
structure State.IoTranslated (s : State) (va : Word) (acc : Access) (pa : Word) (s1 : State) : Prop where
  aligned : va.toNat % 4 = 0
  translation : s.translate va acc = .ok pa s1
  io : s1.isIo pa = true

/-- The state after a device has answered a load of the I/O address `pa` (R242; log 25). -/
def State.ioRead (s : State) (pa : Word) : State := { s with ioLog := .load pa :: s.ioLog, draws := s.draws + 1 }

/-- The state after a store of `v` to the I/O address `pa` (R242; log 25). -/
def State.ioWritten (s : State) (pa v : Word) : State := { s with ioLog := .store pa v :: s.ioLog }

/-- What entry to an interrupt leaves alone: the general registers, SPR, the system registers that are not Previous
registers, FI0R, FI1R or PSR, the copy of the IDT, memory, and every bit of PSR but IM and CMOD (R215). -/
structure State.KeptByEntry (s t : State) : Prop where
  gpr : t.gpr = s.gpr
  spr : t.spr = s.spr
  pdtr : t.pdtr = s.pdtr
  kpdtr : t.kpdtr = s.kpdtr
  tidr : t.tidr = s.tidr
  tisr : t.tisr = s.tisr
  idtr : t.idtr = s.idtr
  idtc : t.idtc = s.idtc
  memory : ∀ a, t.mem.read a = s.mem.read a
  psr : ∀ k, k ≠ 2 → k ≠ 5 → k ≠ 6 → t.psr.getLsbD k = s.psr.getLsbD k

/-- Between two states nothing has changed but what interrupt entry writes, whatever the interrupt (R215). -/
def State.EntryOnly (s t : State) : Prop :=
  t = { s with pflagr := t.pflagr, ppcr := t.ppcr, ppsr := t.ppsr, ppdtr := t.ppdtr, ptidr := t.ptidr, fi0r := t.fi0r,
               fi1r := t.fi1r, psr := t.psr, flagr := t.flagr, pcr := t.pcr, pending := t.pending }

/-- The load instruction of a width. -/
def loadOf : Width → Code → Reg → Operand → Instr
  | .byte => .ld8
  | .half => .ld16
  | .word => .ld32

/-- The store instruction of a width. -/
def storeOf : Width → Code → Reg → Operand → Instr
  | .byte => .st8
  | .half => .st16
  | .word => .st32

/-- The AFE code an instruction carries; 0 where it has no AFE field (44_afe.md R191). -/
def afeOf : Instr → Code
  | .add afe _ _ => afe
  | .mul afe _ _ => afe
  | .cmp afe _ _ => afe
  | .shl afe _ _ => afe
  | .shr afe _ _ => afe
  | .test afe _ _ => afe
  | .wl16 _ _ => 0#4
  | .lil _ _ => 0#4
  | .lih _ _ => 0#4
  | .ld8 afe _ _ => afe
  | .ld16 afe _ _ => afe
  | .ld32 afe _ _ => afe
  | .st8 afe _ _ => afe
  | .st16 afe _ _ => afe
  | .st32 afe _ _ => afe
  | .push afe _ => afe
  | .ppush => 0#4
  | .pop afe _ => afe
  | .branch _ _ => 0#4
  | .ib => 0#4
  | .srspr afe _ => afe
  | .srspw afe _ => afe
  | .srieiw afe _ => afe
  | .sridtw afe _ => afe
  | .movepc afe _ _ => afe
  | .swi afe _ _ => afe
  | .idts => 0#4
  | .clw d => d.afe
  | .srRegR _ d => d.afe
  | .srRegW _ _ => 0#4
  | .frcrCopyOut => 0#4
  | .frcrCopyIn => 0#4
  | .tlbFlush => 0#4
  | .sync => 0#4

/-- The privileged instructions (43_system.md R183; `ib`: 42_branch_control.md R163). -/
def isPrivileged : Instr → Bool
  | .ib => true
  | .srieiw _ _ => true
  | .sridtw _ _ => true
  | .idts => true
  | .srRegR r _ => !bothModes r
  | .srRegW _ _ => true
  | .frcrCopyIn => true
  | .tlbFlush => true
  | .add _ _ _ => false
  | .mul _ _ _ => false
  | .cmp _ _ _ => false
  | .shl _ _ _ => false
  | .shr _ _ _ => false
  | .test _ _ _ => false
  | .wl16 _ _ => false
  | .lil _ _ => false
  | .lih _ _ => false
  | .ld8 _ _ _ => false
  | .ld16 _ _ _ => false
  | .ld32 _ _ _ => false
  | .st8 _ _ _ => false
  | .st16 _ _ _ => false
  | .st32 _ _ _ => false
  | .push _ _ => false
  | .ppush => false
  | .pop _ _ => false
  | .branch _ _ => false
  | .srspr _ _ => false
  | .srspw _ _ => false
  | .movepc _ _ _ => false
  | .swi _ _ _ => false
  | .clw _ => false
  | .frcrCopyOut => false
  | .sync => false

/-- The instructions after which FLAGR may hold something else than 0: the flag-generating ones (40_arithmetic_compare.md
R130) and `ib` (42_branch_control.md R163). -/
def mayLeaveFlags : Instr → Bool
  | .cmp _ _ _ => true
  | .test _ _ _ => true
  | .add _ _ _ => true
  | .shl _ _ _ => true
  | .shr _ _ _ => true
  | .mul _ _ _ => true
  | .ib => true
  | .wl16 _ _ => false
  | .lil _ _ => false
  | .lih _ _ => false
  | .ld8 _ _ _ => false
  | .ld16 _ _ _ => false
  | .ld32 _ _ _ => false
  | .st8 _ _ _ => false
  | .st16 _ _ _ => false
  | .st32 _ _ _ => false
  | .push _ _ => false
  | .ppush => false
  | .pop _ _ => false
  | .branch _ _ => false
  | .srspr _ _ => false
  | .srspw _ _ => false
  | .srieiw _ _ => false
  | .sridtw _ _ => false
  | .movepc _ _ _ => false
  | .swi _ _ _ => false
  | .idts => false
  | .clw _ => false
  | .srRegR _ _ => false
  | .srRegW _ _ => false
  | .frcrCopyOut => false
  | .frcrCopyIn => false
  | .tlbFlush => false
  | .sync => false

/-- The instructions that store to memory (41_load_store_stack.md R142). -/
def isStore : Instr → Bool
  | .st8 _ _ _ => true
  | .st16 _ _ _ => true
  | .st32 _ _ _ => true
  | .push _ _ => true
  | .ppush => true
  | .cmp _ _ _ => false
  | .test _ _ _ => false
  | .add _ _ _ => false
  | .shl _ _ _ => false
  | .shr _ _ _ => false
  | .mul _ _ _ => false
  | .ib => false
  | .wl16 _ _ => false
  | .lil _ _ => false
  | .lih _ _ => false
  | .ld8 _ _ _ => false
  | .ld16 _ _ _ => false
  | .ld32 _ _ _ => false
  | .pop _ _ => false
  | .branch _ _ => false
  | .srspr _ _ => false
  | .srspw _ _ => false
  | .srieiw _ _ => false
  | .sridtw _ _ => false
  | .movepc _ _ _ => false
  | .swi _ _ _ => false
  | .idts => false
  | .clw _ => false
  | .srRegR _ _ => false
  | .srRegW _ _ => false
  | .frcrCopyOut => false
  | .frcrCopyIn => false
  | .tlbFlush => false
  | .sync => false

/-- The general register that an instruction names as its destination, if it has one. -/
def destOf : Instr → Option Reg
  | .add _ rd _ => some rd
  | .mul _ rd _ => some rd
  | .cmp _ _ _ => none
  | .shl _ rd _ => some rd
  | .shr _ rd _ => some rd
  | .test _ _ _ => none
  | .wl16 rd _ => some rd
  | .lil rd _ => some rd
  | .lih rd _ => some rd
  | .ld8 _ rd _ => some rd
  | .ld16 _ rd _ => some rd
  | .ld32 _ rd _ => some rd
  | .st8 _ _ _ => none
  | .st16 _ _ _ => none
  | .st32 _ _ _ => none
  | .push _ _ => none
  | .ppush => none
  | .pop _ rd => some rd
  | .branch _ _ => none
  | .ib => none
  | .srspr _ rd => some rd
  | .srspw _ _ => none
  | .srieiw _ _ => none
  | .sridtw _ _ => none
  | .movepc _ rd _ => some rd
  | .swi _ _ _ => none
  | .idts => none
  | .clw d => some d.rd
  | .srRegR _ d => some d.rd
  | .srRegW _ _ => none
  | .frcrCopyOut => none
  | .frcrCopyIn => none
  | .tlbFlush => none
  | .sync => none

/-- The instructions that load from memory (41_load_store_stack.md R142). -/
def isLoad : Instr → Bool
  | .add _ _ _ => false
  | .mul _ _ _ => false
  | .cmp _ _ _ => false
  | .shl _ _ _ => false
  | .shr _ _ _ => false
  | .test _ _ _ => false
  | .wl16 _ _ => false
  | .lil _ _ => false
  | .lih _ _ => false
  | .ld8 _ _ _ => true
  | .ld16 _ _ _ => true
  | .ld32 _ _ _ => true
  | .st8 _ _ _ => false
  | .st16 _ _ _ => false
  | .st32 _ _ _ => false
  | .push _ _ => false
  | .ppush => false
  | .pop _ _ => true
  | .branch _ _ => false
  | .ib => false
  | .srspr _ _ => false
  | .srspw _ _ => false
  | .srieiw _ _ => false
  | .sridtw _ _ => false
  | .movepc _ _ _ => false
  | .swi _ _ _ => false
  | .idts => false
  | .clw _ => false
  | .srRegR _ _ => false
  | .srRegW _ _ => false
  | .frcrCopyOut => false
  | .frcrCopyIn => false
  | .tlbFlush => false
  | .sync => false

/-- The instructions to which the provisional encoding gives no word (30_encoding.md R123). -/
def isAbstract : Instr → Bool
  | .add _ _ _ => false
  | .mul _ _ _ => false
  | .cmp _ _ _ => false
  | .shl _ _ _ => false
  | .shr _ _ _ => false
  | .test _ _ _ => false
  | .wl16 _ _ => false
  | .lil _ _ => false
  | .lih _ _ => false
  | .ld8 _ _ _ => false
  | .ld16 _ _ _ => false
  | .ld32 _ _ _ => false
  | .st8 _ _ _ => false
  | .st16 _ _ _ => false
  | .st32 _ _ _ => false
  | .push _ _ => false
  | .ppush => false
  | .pop _ _ => false
  | .branch _ _ => false
  | .ib => false
  | .srspr _ _ => false
  | .srspw _ _ => false
  | .srieiw _ _ => false
  | .sridtw _ _ => false
  | .movepc _ _ _ => false
  | .swi _ _ (.reg _) => true
  | .swi _ _ (.imm _) => false
  | .idts => false
  | .clw _ => true
  | .srRegR _ _ => true
  | .srRegW _ _ => true
  | .frcrCopyOut => true
  | .frcrCopyIn => true
  | .tlbFlush => true
  | .sync => true

end Sys2Proof.Machine
end

