-- ==== Sys2Proof/Certificates/Slice0/Obligations.lean ====
section
/-! DEFINITION. The statements about the model, in the order of OBLIGATIONS.json. A docstring names the rules of spec/ a
statement formalises, and the log entries where the model's own choice enters. -/

open Sys2Proof Sys2Proof.Machine

/-! ### Encoding -/

/-- A few words written out from the formats of R122 and the numbers of R123 decode to the instructions they stand for,
and words with a reserved bit set, or with no opcode, to none (log 7). The encoding is from general knowledge (K1, K2,
K13; logs 7, 8, 9). -/
def Obligations.DecodeWrittenWords : Prop :=
  decode 0x00000064#32 = .instr (.add 0 3 (.reg 4)) ∧
  decode 0x0010FC3F#32 = .instr (.add 0 1 (.imm 0xFFFFFFFF)) ∧
  decode 0x0D4468E0#32 = .instr (.wl16 7 0x2340) ∧
  decode 0x10A00002#32 = .instr (.st32 0 0 (.reg 2)) ∧
  decode 0x12000060#32 = .instr (.pop 0 3) ∧
  decode 0x145C0010#32 = .instr (.branch .seo (.imm 0x40)) ∧
  decode 0x24100800#32 = .instr (.swi 0 0 (.imm 64)) ∧
  decode 0x80000000#32 = .reject .bit31 ∧
  decode 0x7FE00000#32 = .reject .opcode ∧
  decode 0x00000400#32 = .reject .reservedBits

/-- DECODE AND ENCODE AGREE: every well-formed instruction that has a word decodes from it, and every instruction but the
seven abstract ones and `swi` with a register (log 59) has a word (R122, R123). The encoding is from general knowledge
(log 7). -/
def Obligations.DecodeOfEncode : Prop :=
  (∀ i w, i.wf = true → encode i = some w → decode w = .instr i) ∧
  (∀ i, isAbstract i = false → ∃ w, encode i = some w)

/-- Every word that decodes is the word of the instruction it decodes to, which is well-formed: no two words are one
instruction, and no bit of a word is dropped (R120, R122). The encoding is from general knowledge (log 7). -/
def Obligations.EncodeOfDecode : Prop :=
  ∀ w i, decode w = .instr i → encode i = some w ∧ i.wf = true

/-- `decode` is replaceable: the platform's own words come first, the provisional encoding after them (R111); in Type-E
exactly the words of an instruction that Type-E has decode (R121): no AFE code, no software interrupt, no TLB flush, no
`sync`, and no register that Type-E lacks (R176, R177). What Type-E decodes is a decision (D45, log 47). -/
def Obligations.PlatformDecode : Prop :=
  (∀ (c : Config) (w : Word),
    (∀ i, lookupWord w c.words = some i → (c.procType = .typeS ∨ i.inTypeE = true) → decodeFor c w = .instr i) ∧
    (∀ i, lookupWord w c.words = none → c.provisional = true → decode w = .instr i →
      (c.procType = .typeS ∨ i.inTypeE = true) → decodeFor c w = .instr i) ∧
    (∀ r, lookupWord w c.words = none → c.provisional = true → decode w = .reject r → decodeFor c w = .reject r) ∧
    (lookupWord w c.words = none → c.provisional = false → decodeFor c w = .reject .unmapped) ∧
    (∀ i, c.procType = .typeE → decodeFor c w = .instr i → i.inTypeE = true)) ∧
  (∀ i : Instr, i.inTypeE = true ↔
    afeOf i = 0#4 ∧ (∀ afe rd n, i ≠ .swi afe rd n) ∧ i ≠ .tlbFlush ∧ i ≠ .sync ∧
    (∀ r d, i = .srRegR r d → r ∈ [.psr, .idtr, .fi0r, .frclr, .frchr, .pflagr, .ppcr, .ppsr]) ∧
    (∀ r rs, i = .srRegW r rs → r ∈ [.psr, .frclr, .frchr, .pflagr, .ppcr, .ppsr]))

/-! ### Reset -/

/-- What R51 and R261 decide about reset: interrupts masked, Kernel Mode, no paging, FRCR 0, both units in S0, no IDT
copy, IOSAR and the ROM registers at their parameters, PCR at RESET_PC, a multiple of 4. The numbers of the parameters are
the model's (logs 2, 3, 5). -/
def Obligations.ResetDecidedValues : Prop :=
  psrIm State.reset.psr = false ∧ psrCmod State.reset.psr = 0b00#2 ∧ psrMmuMod State.reset.psr = 0b00#2 ∧
  State.reset.frcr = 0#64 ∧ State.reset.dps = .s0 ∧ State.reset.gci = .s0 ∧ State.reset.idtc = [] ∧
  State.reset.iosar = Platform.iosarValue ∧ State.reset.cpuidr = Platform.cpuidrValue ∧
  State.reset.coreidr = Platform.coreidrValue ∧ State.reset.pcr = Platform.resetPc ∧ Platform.resetPc.toNat % 4 = 0

/-- The invariant `Good` holds at reset. This rests on values the model chose, since no source states them: the bits of
PSR that the spec leaves open are 0 (log 4) and that PSR is one PSR may hold (log 35), memory lists nothing (log 23), and
nothing is pending (log 27). -/
def Obligations.ResetIsGood : Prop := State.reset.Good

/-! ### The step -/

/-- A STEP RUNS THE DECODED INSTRUCTION (R4, paging off): where nothing is taken at the boundary and the bytes at PCR
decode to `i`, the step is `exec i` on the state at the boundary. In every state, that one differs in the schedule, the
pending requests, the two units, FRCR and the count of free values (log 53) alone, and with no request the pending
requests and the units are as before; FRCR counts on by a free amount (R35; log 46). What arrives (R210, R223; logs 26,
27): in Type-S the first number of each unit that the schedule lists for this boundary becomes pending and takes the unit
from S0 to I0 (log 60), and a unit in I0 makes no request; in Type-E every number listed becomes pending, and no unit
changes. A number outside 4 to 37 in the list is refused (U6). -/
def Obligations.StepRunsDecodedInstruction : Prop :=
  (∀ (s : State) (w : Word) (i : Instr), s.PlainFetch w → decodeFor s.cfg w = .instr i → step s = exec i s.atBoundary) ∧
  (∀ s : State,
    s.atBoundary =
      { s with arrivals := s.arrivals.tail, pending := s.atBoundary.pending, dps := s.atBoundary.dps,
               gci := s.atBoundary.gci, frcr := s.frcr + Config.frcAdvance s.draws, draws := s.draws + 1 } ∧
    (s.arrivals.headD [] = [] → s.atBoundary =
      { s with arrivals := s.arrivals.tail, frcr := s.frcr + Config.frcAdvance s.draws, draws := s.draws + 1 }) ∧
    (s.isS = true →
      (∀ m, m ∈ s.atBoundary.pending ↔ m ∈ s.pending ∨
        s.unitState (unitOfNumber m) = .s0 ∧
          (s.arrivals.headD []).find? (fun n => unitOfNumber n == unitOfNumber m) = some m) ∧
      (∀ u k, s.unitState u = .i0 k → s.atBoundary.unitState u = .i0 k) ∧
      (∀ u n, s.unitState u = .s0 → (s.arrivals.headD []).find? (fun n => unitOfNumber n == u) = some n →
        s.atBoundary.unitState u = .i0 n) ∧
      (∀ u, s.unitState u = .s0 → (∀ n ∈ s.arrivals.headD [], unitOfNumber n ≠ u) → s.atBoundary.unitState u = .s0)) ∧
    (s.isS = false → s.atBoundary.dps = s.dps ∧ s.atBoundary.gci = s.gci ∧
      ∀ m, m ∈ s.atBoundary.pending ↔ m ∈ s.pending ∨ m ∈ s.arrivals.headD []) ∧
    s.unitState .gci = s.gci ∧ s.unitState .dps = s.dps ∧
    ((∃ n ∈ s.arrivals.headD [], n < 4 ∨ 37 < n) → step s = .refused .reservedRequest)) ∧
  (∀ n, unitOfNumber n = if n ≤ 35 then .gci else .dps)

/-- The same with translation (R4, R63, R92): the step is `exec i` on the state that the translation of PCR leaves, which
differs from the state at the boundary in the TLB and in the bytes of the PTEs that the walk reads alone; a fault of the
translation is entered with PCR as the return address (R217), and then at most the first PTE has changed. Faults are
precise and the saved PC is that of the instruction by decision (D21, D34; logs 30, 52). -/
def Obligations.StepRunsTranslatedInstruction : Prop :=
  ∀ s : State, s.Undisturbed →
    (∀ pa s1 i, s.atBoundary.Translated s.pcr .fetch .word pa s1 → (∀ k, k < 4 → pa.toNat + k ∉ s.storedTo) →
      decodeFor s.cfg (s1.mem.readBE pa.toNat 4) = .instr i →
      step s = exec i s1 ∧ s.atBoundary.OnlyPtes s1 (s.atBoundary.pteAddrs s.pcr)) ∧
    (∀ c s1, s.pcr.toNat % 4 = 0 → s.atBoundary.translate s.pcr .fetch = .raise c s1 →
      step s = s1.enter c s.pcr ∧ s.atBoundary.OnlyPtes s1 ((s.atBoundary.pteAddrs s.pcr).take 1))

/-- A hardware interrupt at a boundary (R210, R211, R215, R221, R224): with IM = 1, the lowest-numbered pending request
whose vector is valid and enabled is taken, if every lower one waits behind a vector with Mask = 0. FI0R becomes 0, FI1R
is unchanged, the request leaves the pending set, and no instruction runs. The order, the wait behind Mask = 0 and FI0R =
0 are decisions (D24, D25, D35; log 28), and so are Kernel Mode, the saved PC and FLAGR = 0 (D20, D21; log 30). -/
def Obligations.StepTakesHardwareInterrupt : Prop :=
  ∀ (s : State) (n : Nat) (h : Word), s.Good → s.requestsNow.all hardwareNumber = true → psrIm s.psr = true →
    n ∈ s.atBoundary.pending → s.Vector n h →
    (∀ m ∈ s.atBoundary.pending, m < n → ∃ f, s.idtc[m]? = some f ∧ f.getLsbD 0 = true ∧ f.getLsbD 1 = false) →
    ∃ t, step s = .next t ∧ s.EnteredFrom t ∧ s.KeptByEntry t ∧ s.atBoundary.EntryOnly t ∧ t.pcr = h ∧ t.ppcr = s.pcr ∧
      t.fi0r = 0#32 ∧ t.fi1r = s.fi1r ∧ (∀ m, m ∈ t.pending ↔ m ∈ s.atBoundary.pending ∧ m ≠ n)

/-- Maskable interrupts, the hardware interrupts, are taken only while IM = 1; whether an interrupt raised in any other
way is entered does not depend on IM (R208). That an entry which cannot be carried out is the double fault that ends the
run is a decision (D24, D26; log 32). -/
def Obligations.MaskableOnlyWhileEnabled : Prop :=
  (∀ s : State, psrIm s.psr = false → s.requestsNow.all hardwareNumber = true → step s = s.atBoundary.runNext) ∧
  (∀ (s : State) (c : Cause) (ret : Word) (im : Bool),
    ((∃ t, s.enter c ret = .next t) ↔ ∃ t, { s with psr := psrWithIm s.psr im }.enter c ret = .next t) ∧
    ((∃ t, s.enter c ret = .next t) ∨ s.enter c ret = .fault .doubleFault))

/-- A word that is no instruction takes interrupt 42 in Type-S, with FI0R = FI1R = PCR and PCR saved (R119, R202, R217);
in Type-E it ends the run (D45). First with paging off, then through any translation of PCR, whose write-back of page
flags the entry keeps. The saved PC, Kernel Mode and FLAGR = 0 are decisions (D20, D21; log 30). -/
def Obligations.InvalidWordEnters42 : Prop :=
  (∀ (s : State) (w : Word) (r : Reject), s.PlainFetch w → decodeFor s.cfg w = .reject r →
    (∀ h, s.isS = true → s.Vector 42 h →
      ∃ t, step s = .next t ∧ s.EnteredFrom t ∧ s.KeptByEntry t ∧ s.atBoundary.EntryOnly t ∧ t.pcr = h ∧ t.ppcr = s.pcr ∧
        t.fi0r = s.pcr ∧ t.fi1r = s.pcr) ∧
    (s.isS = false → step s = .fault .typeEInvalid)) ∧
  (∀ (s s1 : State) (pa : Word) (r : Reject), s.Undisturbed → s.atBoundary.Translated s.pcr .fetch .word pa s1 →
    (∀ k, k < 4 → pa.toNat + k ∉ s.storedTo) → decodeFor s.cfg (s1.mem.readBE pa.toNat 4) = .reject r →
    (∀ h, s.isS = true → s1.Vector 42 h →
      ∃ t, step s = .next t ∧ s1.EnteredFrom t ∧ s1.KeptByEntry t ∧ s1.EntryOnly t ∧ t.pcr = h ∧ t.ppcr = s.pcr ∧
        t.fi0r = s.pcr ∧ t.fi1r = s.pcr ∧ s.atBoundary.OnlyPtes s1 (s.atBoundary.pteAddrs s.pcr)) ∧
    (s.isS = false → step s = .fault .typeEInvalid))

/-! ### Taking an exception and returning -/

/-- Entry through a valid, enabled vector (R215; Type-E: R226): the context is in the Previous registers, the handler's
address is in PCR, FI0R and FI1R take what the cause gives (FI1R in Type-S only), and nothing else changes. Kernel Mode,
the saved PC and FLAGR = 0 are decisions (D20, D21; log 30). -/
def Obligations.EntrySavesContext : Prop :=
  ∀ (s : State) (c : Cause) (ret h : Word), s.Vector c.number h →
    ∃ t, s.enter c ret = .next t ∧ s.EnteredFrom t ∧ s.KeptByEntry t ∧ t.ppcr = ret ∧ t.pcr = h ∧
      t.fi0r = c.fi0.getD s.fi0r ∧ t.fi1r = (if s.isS then c.fi1.getD s.fi1r else s.fi1r) ∧
      s.EntryOnly t ∧
      t.pending = (if 4 ≤ c.number ∧ c.number ≤ 37 then s.pending.erase c.number else s.pending)

/-- R38, R41, R42: whenever an interrupt is entered, by whatever vector, PFLAGR takes FLAGR and, in Type-S, PPDTR takes
PDTR and PTIDR takes TIDR. -/
def Obligations.PreviousRegistersCopied : Prop :=
  ∀ (s t : State) (c : Cause) (ret : Word), s.enter c ret = .next t →
    t.pflagr = s.flagr ∧ (s.isS = true → t.ppdtr = s.pdtr ∧ t.ptidr = s.tidr)

/-- An interrupt whose vector is invalid is interrupt 43 with the number in FI0R and FI1R and the saved PC it would have
had (R212). The pending set is as before, the literal reading of R215 (log 29). What entry saves is decided in part (D20,
D21; log 30). -/
def Obligations.InvalidVectorEnters43 : Prop :=
  ∀ (s : State) (c : Cause) (ret f h : Word), c.number ≠ 43 → s.idtc[c.number]? = some f → f.getLsbD 0 = false →
    s.Vector 43 h →
    ∃ t, s.enter c ret = .next t ∧ s.EnteredFrom t ∧ s.KeptByEntry t ∧ s.EntryOnly t ∧ t.ppcr = ret ∧ t.pcr = h ∧
      t.fi0r = BitVec.ofNat 32 c.number ∧ (s.isS = true → t.fi1r = BitVec.ofNat 32 c.number) ∧ t.pending = s.pending

/-- Entry that cannot be carried out ends the run (R212, R213, R220): the IDT copy was never loaded; or the entry of the
interrupt, or entry 43 where that one is invalid and 43 stands in for it, is invalid as entry 43, has Mask = 0, or has a
handler word that is not in memory. In every other case the interrupt, or 43 in its place, is entered, so the last clause
says exactly when the run ends. That 63 ends the run is a decision (D24, D26; log 32). -/
def Obligations.DoubleFaultEndsRun : Prop :=
  ∀ (s : State) (c : Cause) (ret : Word),
    (s.idtc = [] → s.enter c ret = .fault .doubleFault) ∧
    (∀ f, c.number = 43 → s.idtc[43]? = some f → f.getLsbD 0 = false → s.enter c ret = .fault .doubleFault) ∧
    (∀ f, s.idtc[c.number]? = some f → f.getLsbD 0 = true → f.getLsbD 1 = false →
      s.enter c ret = .fault .doubleFault) ∧
    (∀ f, s.idtc[c.number]? = some f → f.getLsbD 0 = true → s.physRead (s.hdlAddr c.number) = none →
      s.enter c ret = .fault .doubleFault) ∧
    (∀ f g, s.idtc[c.number]? = some f → f.getLsbD 0 = false → s.idtc[43]? = some g →
      (g.getLsbD 0 = false ∨ g.getLsbD 1 = false ∨ s.physRead (s.hdlAddr 43) = none) →
      s.enter c ret = .fault .doubleFault) ∧
    (s.enter c ret = .fault .doubleFault ↔
      ¬ ((∃ h, s.Vector c.number h) ∨
        c.number ≠ 43 ∧ (∃ f, s.idtc[c.number]? = some f ∧ f.getLsbD 0 = false) ∧ ∃ h, s.Vector 43 h))

/-- `ib` right after an entry brings back PSR, FLAGR, PDTR, TIDR and, as PCR, the return address, with the general
registers, SPR and memory as they were (R163, R215, R219). What `ib` restores is a decision (D37, log 36), and so is the
one SPR (D31, log 50); a PSR that PSR may hold is that of log 35. -/
def Obligations.EntryThenReturn : Prop :=
  ∀ (s t : State) (c : Cause) (ret : Word), s.enter c ret = .next t → psrLegal s.cfg s.psr = true →
    ∃ u, exec .ib t = .next u ∧ u.psr = s.psr ∧ u.flagr = s.flagr ∧ u.pdtr = s.pdtr ∧ u.tidr = s.tidr ∧ u.pcr = ret ∧
      u.gpr = s.gpr ∧ u.spr = s.spr ∧ u.kpdtr = s.kpdtr ∧ u.tisr = s.tisr ∧ u.idtr = s.idtr ∧ u.idtc = s.idtc ∧
      u.frcr = s.frcr ∧ ∀ a, u.mem.read a = s.mem.read a

/-! ### Over all instructions -/

/-- THE INVARIANT THAT EVERY STEP KEEPS: memory stays canonical, PSR stays a value that it may hold (R163, R177), the IDT
copy stays absent or whole (R175), pending requests stay hardware numbers, each once, lowest first (R210), and the note of
stored addresses stays a set. That PSR may hold MMUPS 000 while paging is off, which R177 refuses to write and R163's
example restores, is an inference of the model (log 35); that `idts` loads all of the table is a decision (D23, log 33);
the set of pending requests is one (D24, log 27), its order and the note of stored addresses are the model's own (log
44). -/
def Obligations.StepKeepsGood : Prop :=
  ∀ s t : State, s.Good → step s = .next t → t.Good

/-- No step changes the parameters, the ROM registers CPUIDR and COREIDR (R24, R25), or IOSAR (R27). -/
def Obligations.StepKeepsParametersAndRom : Prop :=
  ∀ s t : State, step s = .next t → t.cfg = s.cfg ∧ t.cpuidr = s.cpuidr ∧ t.coreidr = s.coreidr ∧ t.iosar = s.iosar

/-- The one way out of User Mode is interrupt entry (R231): it saves the interrupted context, and the saved PC is the
address of the instruction or that of the one after it. That entry changes to Kernel Mode, and the saved PC, are decisions
(D20, D21; log 30). -/
def Obligations.UserModeLeftOnlyByEntry : Prop :=
  ∀ s t : State, s.isS = true → s.userMode = true → step s = .next t → t.userMode = false →
    s.EnteredFrom t ∧ s.KeptByEntry { t with mem := s.mem } ∧ (t.ppcr = s.pcr ∨ t.ppcr = s.pcr + 4#32)

/-- No step in User Mode changes a page table base, TIDR, TISR, IDTR, the IDT copy, or FRCR beyond its counting; and
unless the step enters an interrupt it changes neither PSR, nor a Previous register, nor FI0R or FI1R (R45, R183). Which
instructions are privileged, and who may write which register, is a decision (D29, log 38). That entry writes none of the
registers named first is from R215; for PDTR, whose hardware writes "at certain interrupts" are not specified, R28 lets
`ib` alone make one (log 30), and the task switch that would write TIDR is not specified (R256, log 49). That entry ends
in Kernel Mode, by which the second part tells it, is a decision (D20, log 30), and FRCR counts by a free amount (D30, log
46). -/
def Obligations.UserModeKeepsControlState : Prop :=
  ∀ s t : State, s.isS = true → s.userMode = true → step s = .next t →
    (t.pdtr = s.pdtr ∧ t.kpdtr = s.kpdtr ∧ t.tidr = s.tidr ∧ t.tisr = s.tisr ∧ t.idtr = s.idtr ∧ t.idtc = s.idtc ∧
      t.frcr = s.frcr + Config.frcAdvance s.draws) ∧
    (t.userMode = true → t.psr = s.psr ∧ t.pflagr = s.pflagr ∧ t.ppcr = s.ppcr ∧ t.ppsr = s.ppsr ∧ t.ppdtr = s.ppdtr ∧
      t.ptidr = s.ptidr ∧ t.fi0r = s.fi0r ∧ t.fi1r = s.fi1r)

/-- After every instruction that is neither flag-generating nor `ib`, FLAGR is 0 (R15, R130). -/
def Obligations.OnlyFlagInstructionsLeaveFlags : Prop :=
  ∀ (i : Instr) (s t : State), mayLeaveFlags i = false → exec i s = .next t → t.flagr = 0#5

/-- Only stores and pushes change a byte of memory, but for the A and D flags that a load or pop writes into page tables
when paging is on (R84, R142). When those are written is a decision (D17, log 42); no task switch writes memory, since
none is specified (R256, log 49). -/
def Obligations.MemoryChangedOnlyByStores : Prop :=
  ∀ (i : Instr) (s t : State), isStore i = false → (isLoad i = false ∨ s.pagingOff) → exec i s = .next t →
    ∀ a, t.mem.read a = s.mem.read a

/-- Each of these registers is changed by its own instructions alone: SPR, IDTR, the IDT copy, PDTR, KPDTR, TIDR, TISR,
FRCR and its two buffers. Which instructions may write which register is the decision D29, from which R45 builds its table
(log 38), that `ib` writes PDTR and TIDR is D37 (log 36), and the one SPR, which neither entry nor `ib` switches, is D31
(log 50). That interrupt entry writes none of them is from R215; for PDTR, whose hardware writes "at certain interrupts"
are not specified, R28 lets `ib` alone make one (log 30), and the task switch that would write TIDR is not specified
(R256, log 49). -/
def Obligations.SpecialRegistersHaveTheirInstructions : Prop :=
  ∀ (i : Instr) (s t : State), exec i s = .next t →
    (t.spr ≠ s.spr → (∃ a r, i = .push a r) ∨ i = .ppush ∨ (∃ a r, i = .pop a r) ∨ ∃ a r, i = .srspw a r) ∧
    (t.idtr ≠ s.idtr → ∃ a r, i = .sridtw a r) ∧
    (t.idtc ≠ s.idtc → i = .idts) ∧
    (t.pdtr ≠ s.pdtr → i = .ib ∨ ∃ r, i = .srRegW .pdtr r) ∧
    (t.kpdtr ≠ s.kpdtr → ∃ r, i = .srRegW .kpdtr r) ∧
    (t.tidr ≠ s.tidr → i = .ib ∨ ∃ r, i = .srRegW .tidr r) ∧
    (t.tisr ≠ s.tisr → ∃ r, i = .srRegW .tisr r) ∧
    (t.frcr ≠ s.frcr → i = .frcrCopyIn) ∧
    (t.frclr ≠ s.frclr → i = .frcrCopyOut ∨ ∃ r, i = .srRegW .frclr r) ∧
    (t.frchr ≠ s.frchr → i = .frcrCopyOut ∨ ∃ r, i = .srRegW .frchr r)

/-- No instruction changes a general register other than the one it names as its destination, interrupt entry included
(R11, R215). -/
def Obligations.OnlyTheDestinationRegisterChanges : Prop :=
  ∀ (i : Instr) (s t : State) (r : Reg), exec i s = .next t → destOf i ≠ some r → t.reg r = s.reg r

/-! ### Compare, test and arithmetic -/

/-- `cmp` (R132, R134): FLAGR takes the flags of first operand − second operand, said in integers, and nothing else but
PCR changes. -/
def Obligations.CmpResult : Prop :=
  ∀ (s : State) (afe : Code) (g : Word → Word) (rd : Reg) (b : Operand), afeFunction s.cfg afe = some g →
    ∃ f, exec (.cmp afe rd b) s = .next { s with flagr := f, pcr := s.pcr + 4#32 } ∧
      (flagSF f = true ↔ (s.reg rd - s.operand b).toInt < 0) ∧
      (flagOF f = true ↔ (s.reg rd).toInt - (s.operand b).toInt < -2 ^ 31 ∨
        2 ^ 31 ≤ (s.reg rd).toInt - (s.operand b).toInt) ∧
      (flagCF f = true ↔ (s.operand b).toNat ≤ (s.reg rd).toNat) ∧
      (flagPF f = true ↔ (s.reg rd - s.operand b).toNat % 2 = 0) ∧
      (flagZF f = true ↔ s.reg rd = s.operand b)

/-- R115: the sixteen codes in order with their names, the flag condition of each, that `b` evaluates it on the flags the
instruction before generated, and that after a compare the codes mean what their names say about first operand against
second. -/
def Obligations.ConditionCodes : Prop :=
  [Cond.al, .eq, .neq, .mi, .pl, .even, .odd, .ovf, .ueo, .uu, .uo, .ueu, .seo, .su, .so, .seu].map codeOfCond =
    [0x0#4, 0x1#4, 0x2#4, 0x3#4, 0x4#4, 0x5#4, 0x6#4, 0x7#4, 0x8#4, 0x9#4, 0xA#4, 0xB#4, 0xC#4, 0xD#4, 0xE#4, 0xF#4] ∧
  (∀ cc, condOfCode (codeOfCond cc) = cc) ∧
  condNames =
    [("AL", .al), ("EQ", .eq), ("Z", .eq), ("NEQ", .neq), ("NZ", .neq), ("NE", .neq), ("MI", .mi), ("PL", .pl),
     ("EN", .even), ("ON", .odd), ("OVF", .ovf), ("UEO", .ueo), ("C", .ueo), ("GEU", .ueo), ("UU", .uu), ("NC", .uu),
     ("LTU", .uu), ("UO", .uo), ("GTU", .uo), ("UEU", .ueu), ("LEU", .ueu), ("SEO", .seo), ("GE", .seo), ("SU", .su),
     ("LT", .su), ("SO", .so), ("GT", .so), ("SEU", .seu), ("LE", .seu)] ∧
  (∀ f : Flags,
    condHolds .al f = true ∧ condHolds .eq f = flagZF f ∧ condHolds .neq f = !flagZF f ∧
    condHolds .mi f = flagSF f ∧ condHolds .pl f = !flagSF f ∧ condHolds .even f = flagPF f ∧
    condHolds .odd f = !flagPF f ∧ condHolds .ovf f = flagOF f ∧ condHolds .ueo f = flagCF f ∧
    condHolds .uu f = !flagCF f ∧ condHolds .uo f = (flagCF f && !flagZF f) ∧
    condHolds .ueu f = (!flagCF f || flagZF f) ∧
    condHolds .seo f = ((flagSF f && flagOF f) || (!flagSF f && !flagOF f)) ∧
    condHolds .su f = ((flagSF f && !flagOF f) || (!flagSF f && flagOF f)) ∧
    condHolds .so f = !((flagSF f ^^ flagOF f) || flagZF f) ∧
    condHolds .seu f = ((flagSF f ^^ flagOF f) || flagZF f)) ∧
  (∀ (i : Instr) (cc : Cond) (target : Operand) (s u : State),
    ((∃ afe rd b, i = .cmp afe rd b) ∨ ∃ afe rd b, i = .test afe rd b) → exec i s = .next u →
    ∃ t, exec (.branch cc target) u = .next t ∧
      t.pcr = if condHolds cc u.flagr then u.operand target else u.pcr + 4#32) ∧
  (∀ (afe : Code) (rd : Reg) (b : Operand) (s u : State), exec (.cmp afe rd b) s = .next u →
    (condHolds .eq u.flagr = true ↔ s.reg rd = s.operand b) ∧ (condHolds .neq u.flagr = true ↔ s.reg rd ≠ s.operand b) ∧
    (condHolds .ueo u.flagr = true ↔ (s.operand b).toNat ≤ (s.reg rd).toNat) ∧
    (condHolds .uu u.flagr = true ↔ (s.reg rd).toNat < (s.operand b).toNat) ∧
    (condHolds .uo u.flagr = true ↔ (s.operand b).toNat < (s.reg rd).toNat) ∧
    (condHolds .ueu u.flagr = true ↔ (s.reg rd).toNat ≤ (s.operand b).toNat) ∧
    (condHolds .seo u.flagr = true ↔ (s.operand b).toInt ≤ (s.reg rd).toInt) ∧
    (condHolds .su u.flagr = true ↔ (s.reg rd).toInt < (s.operand b).toInt) ∧
    (condHolds .so u.flagr = true ↔ (s.operand b).toInt < (s.reg rd).toInt) ∧
    (condHolds .seu u.flagr = true ↔ (s.reg rd).toInt ≤ (s.operand b).toInt))

/-- `test` (R133, R135): the flags of the bitwise AND, with OF = CF = 0; nothing else but PCR changes. The operation is
from general knowledge (K5, log 14), OF = CF = 0 is a decision (D6, log 15). -/
def Obligations.TestResult : Prop :=
  ∀ (s : State) (afe : Code) (g : Word → Word) (rd : Reg) (b : Operand), afeFunction s.cfg afe = some g →
    ∃ f, exec (.test afe rd b) s = .next { s with flagr := f, pcr := s.pcr + 4#32 } ∧
      flagSF f = (s.reg rd &&& s.operand b).msb ∧ flagOF f = false ∧ flagCF f = false ∧
      (flagPF f = true ↔ (s.reg rd &&& s.operand b).toNat % 2 = 0) ∧
      (flagZF f = true ↔ s.reg rd &&& s.operand b = 0#32)

/-- `add` (R131, R136): the sum mod 2^32 and the flags of the addition, said in integers, or 0 as ARITH_FLAGS has it; the
AFE acts on the destination after the flags are found (log 11). ARITH_FLAGS is a parameter (log 16). -/
def Obligations.AddResult : Prop :=
  ∀ (s : State) (afe : Code) (g : Word → Word) (rd : Reg) (b : Operand), afeFunction s.cfg afe = some g →
    ∃ t r f, exec (.add afe rd b) s = .next t ∧ r.toNat = ((s.reg rd).toNat + (s.operand b).toNat) % 2 ^ 32 ∧
      s.WroteReg t rd (g r) (if s.cfg.arithFlags = .generate then f else 0#5) ∧
      (flagSF f = true ↔ r.toInt < 0) ∧
      (flagOF f = true ↔ (s.reg rd).toInt + (s.operand b).toInt < -2 ^ 31 ∨
        2 ^ 31 ≤ (s.reg rd).toInt + (s.operand b).toInt) ∧
      (flagCF f = true ↔ 2 ^ 32 ≤ (s.reg rd).toNat + (s.operand b).toNat) ∧
      (flagPF f = true ↔ r.toNat % 2 = 0) ∧ (flagZF f = true ↔ r = 0#32)

/-- `shl` and `shr` (R137, R138): by less than 32 the product with, or the quotient by, a power of two, with the flags of
the result, whose OF and CF are 0 (D6, log 15), or 0 as ARITH_FLAGS has it (R130, R133). An amount of 32 or more is
refused (D39, U28); where the parameter lets the instruction run, only its result is open, a choice of the model (log 13).
SHR fills with 0 by decision (D39, log 17). -/
def Obligations.ShiftResult : Prop :=
  ∀ (s : State) (afe : Code) (g : Word → Word) (rd : Reg) (b : Operand), afeFunction s.cfg afe = some g →
    ((s.operand b).toNat < 32 →
      (∃ t r, exec (.shl afe rd b) s = .next t ∧ r.toNat = (s.reg rd).toNat * 2 ^ (s.operand b).toNat % 2 ^ 32 ∧
        s.WroteReg t rd (g r) (s.arithFlags (flagsLogic r))) ∧
      (∃ t r, exec (.shr afe rd b) s = .next t ∧ r.toNat = (s.reg rd).toNat / 2 ^ (s.operand b).toNat ∧
        s.WroteReg t rd (g r) (s.arithFlags (flagsLogic r)))) ∧
    (32 ≤ (s.operand b).toNat → s.cfg.shiftBeyond = .refuse →
      exec (.shl afe rd b) s = .refused .shiftAmount ∧ exec (.shr afe rd b) s = .refused .shiftAmount) ∧
    (32 ≤ (s.operand b).toNat → s.cfg.shiftBeyond = .free →
      (∃ t r, exec (.shl afe rd b) s = .next t ∧ s.drawn.WroteReg t rd (g r) (s.arithFlags (flagsLogic r))) ∧
      (∃ t r, exec (.shr afe rd b) s = .next t ∧ s.drawn.WroteReg t rd (g r) (s.arithFlags (flagsLogic r)))) ∧
    (∀ r : Word, s.cfg.arithFlags = .generate →
      flagSF (s.arithFlags (flagsLogic r)) = r.msb ∧ flagOF (s.arithFlags (flagsLogic r)) = false ∧
      flagCF (s.arithFlags (flagsLogic r)) = false ∧ (flagPF (s.arithFlags (flagsLogic r)) = true ↔ r.toNat % 2 = 0) ∧
      (flagZF (s.arithFlags (flagsLogic r)) = true ↔ r = 0#32)) ∧
    (∀ r : Word, s.cfg.arithFlags = .zero → s.arithFlags (flagsLogic r) = 0#5)

/-- `mul` (R139): the low 32 bits of the product, with the flags of the result, whose OF and CF are 0 (D6, log 15), or 0
as ARITH_FLAGS has it. The low half is a decision (D38, log 17). -/
def Obligations.MulResult : Prop :=
  ∀ (s : State) (afe : Code) (g : Word → Word) (rd : Reg) (b : Operand), afeFunction s.cfg afe = some g →
    ∃ t r f, exec (.mul afe rd b) s = .next t ∧ r.toNat = (s.reg rd).toNat * (s.operand b).toNat % 2 ^ 32 ∧
      s.WroteReg t rd (g r) (if s.cfg.arithFlags = .generate then f else 0#5) ∧
      flagSF f = r.msb ∧ flagOF f = false ∧ flagCF f = false ∧ (flagPF f = true ↔ r.toNat % 2 = 0) ∧
      (flagZF f = true ↔ r = 0#32)

/-- `clw` (R140; that it may carry an AFE is the model's choice, log 57), `lil` under each LIL_EXT (R153), `lih` (R154,
whose cleared low half is a decision, log 17) and `wl16` (R155). -/
def Obligations.ClearAndLoadImmediate : Prop :=
  ∀ (s : State) (rd : Reg) (imm : BitVec 16),
    (∀ afe g, afeFunction s.cfg afe = some g → ∃ t, exec (.clw ⟨rd, afe⟩) s = .next t ∧ s.WroteReg t rd (g 0#32) 0#5) ∧
    (∃ t, exec (.clw ⟨rd, 0#4⟩) s = .next t ∧ s.WroteReg t rd 0#32 0#5) ∧
    (∃ t v, exec (.lil rd imm) s = .next t ∧ s.WroteReg t rd v 0#5 ∧
      (s.cfg.lilExt = .zero → v.toNat = imm.toNat) ∧ (s.cfg.lilExt = .sign → v.toInt = imm.toInt)) ∧
    (∃ t v, exec (.lih rd imm) s = .next t ∧ s.WroteReg t rd v 0#5 ∧ v.toNat = imm.toNat * 2 ^ 16) ∧
    (∃ t v, exec (.wl16 rd imm) s = .next t ∧ s.WroteReg t rd v 0#5 ∧ hi v = hi (s.reg rd) ∧ lo v = imm)

/-- `lih r, hi(A)` and then `wl16 r, lo(A)` leave A in r, for every A, with every other register as it was (R118, R155).
-/
def Obligations.LihWl16BuildAddress : Prop :=
  ∀ (s : State) (rd : Reg) (a : Word),
    ∃ t u, exec (.lih rd (hi a)) s = .next t ∧ exec (.wl16 rd (lo a)) t = .next u ∧ u.reg rd = a ∧
      (∀ r, r ≠ rd → u.reg r = s.reg r) ∧ u = { s with gpr := u.gpr, flagr := 0#5, pcr := s.pcr + 4#32 + 4#32 }

/-- The AFE (R190, R192, R193): code 0 is the identity; in Type-S the code the platform gives `#sext8-32` sign-extends the
low byte; an instruction with any other code is refused (D3, log 11). -/
def Obligations.AfeFunctions : Prop :=
  (∀ c : Config, ∃ g, afeFunction c 0#4 = some g ∧ ∀ v, g v = v) ∧
  (∀ (c : Config) (code : Code), c.procType = .typeS → code ≠ 0#4 → c.sext8Code = some code →
    ∃ g, afeFunction c code = some g ∧ ∀ v, (g v).toInt = (v.setWidth 8).toInt) ∧
  (∀ (i : Instr) (s : State), s.isS = true → afeOf i ≠ 0#4 → s.cfg.sext8Code ≠ some (afeOf i) →
    exec i s = .refused .afeCode)

/-! ### Memory, loads and stores -/

/-- Big-endian memory (R62): an access of 1, 2 or 4 bytes has the byte at its address as the most significant; a write
changes those bytes alone; and a narrower read sees the big-endian part of what was stored. -/
def Obligations.BigEndianMemory : Prop :=
  ∀ (m : Memory) (a : Nat) (v : Word), m.wf = true →
    m.readBE a 1 = (m.read a).zeroExtend 32 ∧
    m.readBE a 2 = (m.read a ++ m.read (a + 1)).zeroExtend 32 ∧
    m.readBE a 4 = m.read a ++ m.read (a + 1) ++ m.read (a + 2) ++ m.read (a + 3) ∧
    (∀ w : Width, HoldsBytes (m.writeBE a w.bytes v) a w.bytes v ∧ SameOutside m (m.writeBE a w.bytes v) a w.bytes) ∧
    (m.writeBE a 4 v).readBE a 4 = v ∧
    (∀ k, k < 4 → ((m.writeBE a 4 v).readBE (a + k) 1).toNat = v.toNat / 2 ^ (8 * (3 - k)) % 2 ^ 8) ∧
    ((m.writeBE a 4 v).readBE (a + 2) 2).toNat = v.toNat % 2 ^ 16

/-- The loads with paging off (R143 to R145): an aligned load from memory writes the bytes at the operand's address,
zero-extended (D10, log 22), to the destination and nothing else. -/
def Obligations.LoadPlain : Prop :=
  ∀ (s : State) (w : Width) (afe : Code) (g : Word → Word) (rd : Reg) (ea : Operand), afeFunction s.cfg afe = some g →
    s.PlainAccess (s.operand ea) w →
    ∃ t v, exec (loadOf w afe rd ea) s = .next t ∧ s.WroteReg t rd (g v) 0#5 ∧
      HoldsBytes s.mem (s.operand ea).toNat w.bytes v ∧ v.toNat < 2 ^ (8 * w.bytes)

/-- The stores with paging off (R146 to R148): the low bytes of the data register are stored at the operand's address,
most significant first; every other byte of memory, every register but FLAGR and PCR, is as before; the bytes are noted
(log 44). Truncation is a decision (D10, log 22). -/
def Obligations.StorePlain : Prop :=
  ∀ (s : State) (w : Width) (afe : Code) (g : Word → Word) (rd : Reg) (ea : Operand), s.mem.wf = true →
    afeFunction s.cfg afe = some g → s.PlainAccess (s.operand ea) w →
    ∃ t, exec (storeOf w afe rd ea) s = .next t ∧ HoldsBytes t.mem (s.operand ea).toNat w.bytes (s.reg rd) ∧
      SameOutside s.mem t.mem (s.operand ea).toNat w.bytes ∧
      (∀ a, a ∈ t.storedTo ↔ a ∈ s.storedTo ∨ (s.operand ea).toNat ≤ a ∧ a < (s.operand ea).toNat + w.bytes) ∧
      t = { s with mem := t.mem, storedTo := t.storedTo, flagr := 0#5, pcr := s.pcr + 4#32 }

/-- A load of the same width at the address just stored to gives the low bytes of the stored register (R62, R70).
Zero-extension and truncation are decisions (D10, log 22). -/
def Obligations.StoreThenLoad : Prop :=
  ∀ (s t : State) (w : Width) (rd rd' : Reg) (ea ea' : Operand), s.mem.wf = true → s.PlainAccess (s.operand ea) w →
    exec (storeOf w 0#4 rd ea) s = .next t → t.operand ea' = s.operand ea →
    ∃ u, exec (loadOf w 0#4 rd' ea') t = .next u ∧ (u.reg rd').toNat = (s.reg rd).toNat % 2 ^ (8 * w.bytes)

/-- The loads through any translation that succeeds (R92): as `LoadPlain`, at the physical address and on the state that
the translation leaves, which differs in the TLB and in the bytes of the PTEs that the walk reads alone. Zero-extension is
a decision (D10, log 22). -/
def Obligations.LoadTranslated : Prop :=
  ∀ (s s1 : State) (w : Width) (afe : Code) (g : Word → Word) (rd : Reg) (ea : Operand) (pa : Word),
    afeFunction s.cfg afe = some g → s.Translated (s.operand ea) .read w pa s1 →
    ∃ t v, exec (loadOf w afe rd ea) s = .next t ∧ s1.WroteReg t rd (g v) 0#5 ∧
      HoldsBytes s1.mem pa.toNat w.bytes v ∧ v.toNat < 2 ^ (8 * w.bytes) ∧ s.OnlyPtes s1 (s.pteAddrs (s.operand ea))

/-- The stores through any translation that succeeds (R84, R92): the write-back of page flags comes first, to the PTEs
that the walk reads alone, then the bytes.
Truncation and the order of the write-backs are decisions (D10, D17; logs 22, 42). -/
def Obligations.StoreTranslated : Prop :=
  ∀ (s s1 : State) (w : Width) (afe : Code) (g : Word → Word) (rd : Reg) (ea : Operand) (pa : Word), s.mem.wf = true →
    afeFunction s.cfg afe = some g → s.Translated (s.operand ea) .write w pa s1 →
    ∃ t, exec (storeOf w afe rd ea) s = .next t ∧ HoldsBytes t.mem pa.toNat w.bytes (s.reg rd) ∧
      SameOutside s1.mem t.mem pa.toNat w.bytes ∧ s.OnlyPtes s1 (s.pteAddrs (s.operand ea)) ∧
      t = { s with mem := t.mem, tlb := s1.tlb, storedTo := t.storedTo, flagr := 0#5, pcr := s.pcr + 4#32 }

/-- Accesses the spec forbids stop by name, with paging off, where an address translates to itself (R76), or through any
translation that succeeds: a misaligned load, store, stack access or fetch, and a load or store of 1 or 2 bytes in the I/O
region, ends the run (R64 to R66, log 18); a load, store, stack access or fetch of an address with no memory (log 24), a
fetch from I/O (log 45) and a fetch of a byte the program has stored to (log 44) are refused (R63, R74, R92). The I/O
region is what lies at or above IOSAR, in Type-S only (R61), and memory ends at MEM_SIZE and, in Type-S, at IOSAR (R92,
D19). -/
def Obligations.ForbiddenAccessesStop : Prop :=
  ∀ (s : State) (afe : Code) (g : Word → Word), afeFunction s.cfg afe = some g →
    (∀ (w : Width) (rd : Reg) (ea : Operand), (s.operand ea).toNat % w.bytes ≠ 0 →
      exec (loadOf w afe rd ea) s = .fault .alignmentViolation ∧
      exec (storeOf w afe rd ea) s = .fault .alignmentViolation) ∧
    (∀ rd : Reg, s.pushAddr.toNat % 4 ≠ 0 → exec (.push afe rd) s = .fault .alignmentViolation) ∧
    (s.pushAddr.toNat % 4 ≠ 0 → exec .ppush s = .fault .alignmentViolation) ∧
    (∀ rd : Reg, s.popAddr.toNat % 4 ≠ 0 → exec (.pop afe rd) s = .fault .alignmentViolation) ∧
    (s.Undisturbed → s.pcr.toNat % 4 ≠ 0 → step s = .fault .alignmentViolation) ∧
    (s.pagingOff → ∀ va acc,
      s.translate va acc = .ok va s ∧ s.atBoundary.translate va acc = .ok va s.atBoundary) ∧
    (∀ pa, s.isIo pa = true ↔ s.cfg.procType = .typeS ∧ s.iosar.toNat ≤ pa.toNat) ∧
    (s.ramTop = if s.cfg.procType = .typeS then min s.cfg.memSize s.iosar.toNat else s.cfg.memSize) ∧
    (∀ (w : Width) (rd : Reg) (ea : Operand) (pa : Word) (s1 : State), (s.operand ea).toNat % w.bytes = 0 →
      (s.isIo pa = true → w ≠ .word →
        (s.translate (s.operand ea) .read = .ok pa s1 → exec (loadOf w afe rd ea) s = .fault .alignmentViolation) ∧
        (s.translate (s.operand ea) .write = .ok pa s1 → exec (storeOf w afe rd ea) s = .fault .alignmentViolation)) ∧
      (s.isIo pa = false → s.ramTop < pa.toNat + w.bytes →
        (s.translate (s.operand ea) .read = .ok pa s1 → exec (loadOf w afe rd ea) s = .refused .unmappedAddress) ∧
        (s.translate (s.operand ea) .write = .ok pa s1 → exec (storeOf w afe rd ea) s = .refused .unmappedAddress))) ∧
    (∀ (rd : Reg) (pa : Word) (s1 : State), s.isIo pa = false → s.ramTop < pa.toNat + 4 →
      (s.pushAddr.toNat % 4 = 0 → s.translate s.pushAddr .write = .ok pa s1 →
        exec (.push afe rd) s = .refused .unmappedAddress ∧ exec .ppush s = .refused .unmappedAddress) ∧
      (s.popAddr.toNat % 4 = 0 → s.translate s.popAddr .read = .ok pa s1 →
        exec (.pop afe rd) s = .refused .unmappedAddress)) ∧
    (∀ (pa : Word) (s1 : State), s.Undisturbed → s.pcr.toNat % 4 = 0 → s.atBoundary.translate s.pcr .fetch = .ok pa s1 →
      (s.isIo pa = true → step s = .refused .fetchFromIo) ∧
      (s.isIo pa = false → s.ramTop < pa.toNat + 4 → step s = .refused .unmappedAddress) ∧
      (s.isIo pa = false → pa.toNat + 4 ≤ s.ramTop → (∃ k, k < 4 ∧ pa.toNat + k ∈ s.storedTo) →
        step s = .refused .fetchOfStoredBytes))

/-- Word access to the I/O region (R65, R223, R242), with paging off or through any translation, by `ld32`, `st32`,
`push`, `ppush` and `pop`: in state S0 of the unit a load answers an input the model does not compute and a store is an
output event; in I0 the read of the cause register releases the unit, and any other access is refused. SPR moves as in
`PushResult` and `PopResult`. The device as an external agent is a decision (D19; logs 25, 26). -/
def Obligations.IoAccess : Prop :=
  ∀ (s : State) (afe : Code) (g : Word → Word) (rd : Reg), afeFunction s.cfg afe = some g →
    (∀ (va : Word) (acc : Access), s.pagingOff → va.toNat % 4 = 0 → s.isIo va = true → s.IoTranslated va acc va s) ∧
    (∀ (va : Word) (acc : Access) (pa : Word) (s1 : State), s.IoTranslated va acc pa s1 → s.OnlyPtes s1 (s.pteAddrs va)) ∧
    (∀ (i : Instr) (va pa x : Word) (s1 : State), s.IoTranslated va .read pa s1 →
      ((∃ ea, i = .ld32 afe rd ea ∧ va = s.operand ea ∧ x = s.spr) ∨
        (i = .pop afe rd ∧ va = s.popAddr ∧ x = s.sprAfterPop)) →
      (s1.unitState (unitOfAddr s.cfg pa) = .s0 →
        ∃ t v, exec i s = .next t ∧ { s1.ioRead pa with spr := x }.WroteReg t rd (g v) 0#5) ∧
      (∀ n, s1.unitState (unitOfAddr s.cfg pa) = .i0 n →
        ((n, pa) ∉ s.cfg.causeRegs → exec i s = .refused .deviceInI0) ∧
        ((n, pa) ∈ s.cfg.causeRegs →
          ∃ t v, exec i s = .next t ∧
            { (s1.ioRead pa).setUnit (unitOfAddr s.cfg pa) .s0 with spr := x }.WroteReg t rd (g v) 0#5))) ∧
    (∀ (i : Instr) (va pa x v : Word) (s1 : State), s.IoTranslated va .write pa s1 →
      ((∃ ea, i = .st32 afe rd ea ∧ va = s.operand ea ∧ v = s.reg rd ∧ x = s.spr) ∨
        (i = .push afe rd ∧ va = s.pushAddr ∧ v = s.reg rd ∧ x = s.sprAfterPush) ∨
        (i = .ppush ∧ va = s.pushAddr ∧ v = s.pcr + s.cfg.ppushOffset ∧ x = s.sprAfterPush)) →
      (s1.unitState (unitOfAddr s.cfg pa) = .s0 →
        exec i s = .next { s1.ioWritten pa v with spr := x, flagr := 0#5, pcr := s.pcr + 4#32 }) ∧
      (∀ n, s1.unitState (unitOfAddr s.cfg pa) = .i0 n → exec i s = .refused .deviceInI0))

/-! ### The stack -/

/-- `push` and `ppush` (R149, R150, R152): the word is stored where the stack discipline says, through the translation,
and SPR moves as it says; every other byte of memory, but those of the PTEs that the walk reads, and every other register
is as before. `ppush` pushes PCR + PPUSH_OFFSET. The discipline and the offset are parameters (D8, D9; logs 19, 20). -/
def Obligations.PushResult : Prop :=
  ∀ (s s1 : State) (afe : Code) (g : Word → Word) (rd : Reg) (pa : Word), s.mem.wf = true →
    afeFunction s.cfg afe = some g → s.Translated s.pushAddr .write .word pa s1 →
    (∀ i x, (i = .push afe rd ∧ x = s.reg rd) ∨ (i = .ppush ∧ x = s.pcr + s.cfg.ppushOffset) →
      ∃ t, exec i s = .next t ∧ HoldsBytes t.mem pa.toNat 4 x ∧ SameOutside s1.mem t.mem pa.toNat 4 ∧
        s.OnlyPtes s1 (s.pteAddrs s.pushAddr) ∧
        t = { s with mem := t.mem, tlb := s1.tlb, storedTo := t.storedTo, spr := t.spr, flagr := 0#5,
                     pcr := s.pcr + 4#32 } ∧
        (s.cfg.stack = .emptyDescending → s.pushAddr = s.spr ∧ t.spr = s.spr - 4#32) ∧
        (s.cfg.stack = .emptyAscending → s.pushAddr = s.spr ∧ t.spr = s.spr + 4#32) ∧
        (s.cfg.stack = .fullDescending → s.pushAddr = s.spr - 4#32 ∧ t.spr = s.spr - 4#32))

/-- `pop` (R149, R151): the destination takes the word at the address the discipline says, and SPR moves as it says. The
discipline is a parameter (D8, log 19). -/
def Obligations.PopResult : Prop :=
  ∀ (s s1 : State) (afe : Code) (g : Word → Word) (rd : Reg) (pa : Word), afeFunction s.cfg afe = some g →
    s.Translated s.popAddr .read .word pa s1 →
    ∃ t v, exec (.pop afe rd) s = .next t ∧ HoldsBytes s1.mem pa.toNat 4 v ∧ t.reg rd = g v ∧
      (∀ r, r ≠ rd → t.reg r = s.reg r) ∧
      t = { s1 with gpr := t.gpr, spr := t.spr, flagr := 0#5, pcr := s.pcr + 4#32 } ∧
      s.OnlyPtes s1 (s.pteAddrs s.popAddr) ∧
      (s.cfg.stack = .emptyDescending → s.popAddr = s.spr + 4#32 ∧ t.spr = s.spr + 4#32) ∧
      (s.cfg.stack = .emptyAscending → s.popAddr = s.spr - 4#32 ∧ t.spr = s.spr - 4#32) ∧
      (s.cfg.stack = .fullDescending → s.popAddr = s.spr ∧ t.spr = s.spr + 4#32)

/-- Under every stack discipline a `push` and then a `pop` return the pushed value and restore SPR (R149; paging off). The
discipline is a parameter (D8, log 19). -/
def Obligations.PushThenPop : Prop :=
  ∀ (s : State) (rd rd' : Reg), s.mem.wf = true → s.PlainAccess s.pushAddr .word →
    ∃ t u, exec (.push 0#4 rd) s = .next t ∧ exec (.pop 0#4 rd') t = .next u ∧ u.reg rd' = s.reg rd ∧ u.spr = s.spr ∧
      (∀ r, r ≠ rd' → u.reg r = s.reg r) ∧ SameOutside s.mem u.mem s.pushAddr.toNat 4

/-! ### Branch, program counter, return -/

/-- `b` (R160, R161): PCR takes the target where the condition holds and advances by 4 where it does not; FLAGR becomes 0
in both cases, and nothing else changes. That a condition other than AL is evaluated after any instruction is log 12. -/
def Obligations.BranchResult : Prop :=
  ∀ (s : State) (cc : Cond) (target : Operand),
    (condHolds cc s.flagr = true →
      exec (.branch cc target) s = .next { s with flagr := 0#5, pcr := s.operand target }) ∧
    (condHolds cc s.flagr = false → exec (.branch cc target) s = .next { s with flagr := 0#5, pcr := s.pcr + 4#32 })

/-- `movepc` (R162): the destination takes PCR + offset mod 2^32, PCR being its own address. A register as
the offset is the model's choice (log 58). -/
def Obligations.MovepcResult : Prop :=
  ∀ (s : State) (afe : Code) (g : Word → Word) (rd : Reg) (off : Operand), afeFunction s.cfg afe = some g →
    ∃ t v, exec (.movepc afe rd off) s = .next t ∧ v.toNat = (s.pcr.toNat + (s.operand off).toNat) % 2 ^ 32 ∧
      s.WroteReg t rd (g v) 0#5

/-- `ib` in Kernel Mode (R163): PSR, FLAGR, PCR and, in Type-S, PDTR and TIDR take their Previous registers, and nothing
else changes; a PPSR that PSR may not hold is refused (U16, log 36). PSR may hold, in Type-S, a value whose reserved bits
are 0 (U7), whose CMOD is 00 or 11 (U16), and whose paging is off or a supported mode of a supported page size (R75, U4,
U5), with MMUPS also 000 where paging is off (log 35); in Type-E, IM alone (U7). What `ib` restores is a decision (D37,
log 36). -/
def Obligations.IbResult : Prop :=
  (∀ s : State, s.kernel = true →
    (psrLegal s.cfg s.ppsr = true →
      exec .ib s = .next { s with psr := s.ppsr, flagr := s.pflagr, pcr := s.ppcr,
                                  pdtr := if s.isS then s.ppdtr else s.pdtr,
                                  tidr := if s.isS then s.ptidr else s.tidr }) ∧
    (psrLegal s.cfg s.ppsr = false → exec .ib s = .refused .psrReserved)) ∧
  (∀ (c : Config) (p : Word),
    (c.procType = .typeE → (psrLegal c p = true ↔ ∀ k, k ≠ 2 → p.getLsbD k = false)) ∧
    (c.procType = .typeS → (psrLegal c p = true ↔
      (∀ k, k = 3 ∨ k = 4 ∨ 10 ≤ k → p.getLsbD k = false) ∧ (p.extractLsb' 5 2 = 0b00#2 ∨ p.extractLsb' 5 2 = 0b11#2) ∧
      (p.extractLsb' 0 2 = 0b00#2 ∧ p.extractLsb' 7 3 = 0b000#3 ∨
       (p.extractLsb' 0 2 = 0b00#2 ∨
         (p.extractLsb' 0 2 = 0b01#2 ∨ p.extractLsb' 0 2 = 0b10#2) ∧ p.extractLsb' 0 2 ∈ c.mmuMods) ∧
        p.extractLsb' 7 3 ∈ [0b001#3, 0b010#3, 0b011#3, 0b100#3, 0b101#3] ∧ p.extractLsb' 7 3 ∈ c.mmuPageSizes))))

/-! ### System registers -/

/-- `srspr` and `srspw` (R171, R172): in both modes, the destination takes SPR, and SPR takes the register, with no check
of its alignment; the next push finds a misaligned SPR, which ends the run by decision (R66, D11; log 18). That both modes
may use them is a decision (D29; log 38). -/
def Obligations.SprAccess : Prop :=
  ∀ (s : State) (afe : Code) (g : Word → Word) (rd rs : Reg), afeFunction s.cfg afe = some g →
    (∃ t, exec (.srspr afe rd) s = .next t ∧ s.WroteReg t rd (g s.spr) 0#5) ∧
    exec (.srspw afe rs) s = .next { s with spr := s.reg rs, flagr := 0#5, pcr := s.pcr + 4#32 } ∧
    (s.spr.toNat % 4 ≠ 0 → ∀ r, exec (.push afe r) s = .fault .alignmentViolation ∧
      exec (.pop afe r) s = .fault .alignmentViolation ∧ exec .ppush s = .fault .alignmentViolation)

/-- `srieiw` and `sridtw` in Kernel Mode (R173, R174): PSR.IM takes bit 0 of the operand and every other bit of PSR stays;
IDTR takes the register, a multiple of 8, and the IDT copy stays; a value that is no multiple of 8 is refused (D22). Log
34. -/
def Obligations.InterruptControlWrites : Prop :=
  ∀ (s : State) (afe : Code) (g : Word → Word), afeFunction s.cfg afe = some g → s.kernel = true →
    (∀ v, ∃ t, exec (.srieiw afe v) s = .next t ∧ psrIm t.psr = (s.maskOperand v).getLsbD 0 ∧
      (∀ k, k ≠ 2 → t.psr.getLsbD k = s.psr.getLsbD k) ∧
      t = { s with psr := t.psr, flagr := 0#5, pcr := s.pcr + 4#32 }) ∧
    (∀ rs, (s.reg rs).toNat % 8 = 0 →
      exec (.sridtw afe rs) s = .next { s with idtr := s.reg rs, flagr := 0#5, pcr := s.pcr + 4#32 }) ∧
    (∀ rs, (s.reg rs).toNat % 8 ≠ 0 → exec (.sridtw afe rs) s = .refused .idtrAlignment)

/-- `idts` in Kernel Mode with interrupts disabled (R175, U11): the copy holds the flag word of each of the 2048 entries
of the table at IDTR, and nothing else changes. The flag word of an entry is its second word under `hdl_first` and its
first under `flags_first`, and the handler word, which entry reads, the other (R205). That all entries are loaded and the
order of the words of an entry are decisions (D22, D23; log 33). -/
def Obligations.IdtsLoadsTable : Prop :=
  (∀ s : State, s.kernel = true → psrIm s.psr = false → s.idtr.toNat + 16384 ≤ s.ramTop →
    ∃ t, exec .idts s = .next t ∧ t.idtc.length = 2048 ∧
      (∀ n, n < 2048 → t.idtc[n]? =
        some (s.mem.readBE
          (s.idtr + BitVec.ofNat 32 (8 * n) + if s.cfg.idtOrder = .hdlFirst then 4#32 else 0#32).toNat 4)) ∧
      t = { s with idtc := t.idtc, flagr := 0#5, pcr := s.pcr + 4#32 }) ∧
  (∀ (s : State) (n : Nat),
    (s.cfg.idtOrder = .hdlFirst → s.hdlAddr n = s.idtr + BitVec.ofNat 32 (8 * n) ∧
      s.idtFlagsAddr n = s.idtr + BitVec.ofNat 32 (8 * n) + 4#32) ∧
    (s.cfg.idtOrder = .flagsFirst → s.hdlAddr n = s.idtr + BitVec.ofNat 32 (8 * n) + 4#32 ∧
      s.idtFlagsAddr n = s.idtr + BitVec.ofNat 32 (8 * n)))

/-- `swi n` with n from 64 to 127, in Type-S, in both modes (R182, R209): entry to interrupt n with PCR + 4 saved, and
FI0R, FI1R, the pending set, the general registers, SPR and memory unchanged; any other n is refused (D43). The saved PC
is a decision (D21, log 30; R217 marks it so), and so is that both modes may run it (D29, log 38). PFLAGR takes the FLAGR
that `swi` found (log 31). The register form is the model's choice (log 59). -/
def Obligations.SwiEnters : Prop :=
  ∀ (s : State) (afe : Code) (g : Word → Word) (rd : Reg) (n : Operand), s.isS = true → afeFunction s.cfg afe = some g →
    (∀ h, 64 ≤ (s.operand n).toNat → (s.operand n).toNat ≤ 127 → s.Vector (s.operand n).toNat h →
      ∃ t, exec (.swi afe rd n) s = .next t ∧ s.EnteredFrom t ∧ s.KeptByEntry t ∧ s.EntryOnly t ∧ t.ppcr = s.pcr + 4#32 ∧
        t.pcr = h ∧ t.fi0r = s.fi0r ∧ t.fi1r = s.fi1r ∧ t.pending = s.pending) ∧
    ((s.operand n).toNat < 64 ∨ 127 < (s.operand n).toNat → exec (.swi afe rd n) s = .refused .swiNumber)

/-- `sr<REG>r` (R176): where the type has the register and the mode may read it (R183), the destination takes its value,
PFLAGR zero-extended, and nothing else changes. Type-E has eight of the registers, and ends the run on another (D45, log
47); User Mode may read five. Which mode may read which register is a decision (D29, log 38); the AFE is the model's
choice (log 57). -/
def Obligations.SystemRegisterReads : Prop :=
  ∀ (s : State) (afe : Code) (g : Word → Word) (rd : Reg), afeFunction s.cfg afe = some g →
    (∀ r, (s.isS = true ∨ r ∈ [.psr, .idtr, .fi0r, .frclr, .frchr, .pflagr, .ppcr, .ppsr]) →
      (s.kernel = true ∨ r ∈ [.cpuidr, .coreidr, .iosar, .frclr, .frchr]) →
      ∃ t, exec (.srRegR r ⟨rd, afe⟩) s = .next t ∧ s.WroteReg t rd (g (s.readSys r)) 0#5) ∧
    (∀ r, s.isS = false → r ∉ [.psr, .idtr, .fi0r, .frclr, .frchr, .pflagr, .ppcr, .ppsr] →
      exec (.srRegR r ⟨rd, afe⟩) s = .fault .typeEInvalid) ∧
    (∀ r, isPrivileged (.srRegR r ⟨rd, afe⟩) = true ↔ r ∉ [.cpuidr, .coreidr, .iosar, .frclr, .frchr]) ∧
    s.readSys .psr = s.psr ∧ s.readSys .cpuidr = s.cpuidr ∧ s.readSys .coreidr = s.coreidr ∧ s.readSys .tidr = s.tidr ∧
    s.readSys .iosar = s.iosar ∧ s.readSys .pdtr = s.pdtr ∧ s.readSys .kpdtr = s.kpdtr ∧ s.readSys .tisr = s.tisr ∧
    s.readSys .idtr = s.idtr ∧ s.readSys .fi0r = s.fi0r ∧ s.readSys .fi1r = s.fi1r ∧ s.readSys .frclr = s.frclr ∧
    s.readSys .frchr = s.frchr ∧ (s.readSys .pflagr).toNat = s.pflagr.toNat ∧ s.readSys .ppcr = s.ppcr ∧
    s.readSys .ppsr = s.ppsr ∧ s.readSys .ppdtr = s.ppdtr ∧ s.readSys .ptidr = s.ptidr

/-- `sr<REG>w` in Kernel Mode (R177): the register takes the value, PFLAGR its low five bits, and nothing else changes; a
PSR value that is reserved or not supported is refused. In Type-S those are the values with a reserved bit set (U7), CMOD
01 or 10 (U7), MMUPS 000, 110 or 111 (U4), MMUMOD 11 (U4), or a paging mode or page size that is not supported (R75, U5);
in Type-E the values with a bit beside IM set (U7). Type-E ends the run on a register it lacks (D45, log 47). -/
def Obligations.SystemRegisterWrites : Prop :=
  ∀ (s : State) (rs : Reg), s.kernel = true →
    (∀ p, p = s.reg rs →
      (if s.isS then
        (∀ k, k = 3 ∨ k = 4 ∨ 10 ≤ k → p.getLsbD k = false) ∧ (p.extractLsb' 5 2 = 0b00#2 ∨ p.extractLsb' 5 2 = 0b11#2) ∧
        (p.extractLsb' 0 2 = 0b00#2 ∨
          (p.extractLsb' 0 2 = 0b01#2 ∨ p.extractLsb' 0 2 = 0b10#2) ∧ p.extractLsb' 0 2 ∈ s.cfg.mmuMods) ∧
        p.extractLsb' 7 3 ∈ [0b001#3, 0b010#3, 0b011#3, 0b100#3, 0b101#3] ∧ p.extractLsb' 7 3 ∈ s.cfg.mmuPageSizes
       else ∀ k, k ≠ 2 → p.getLsbD k = false) →
      exec (.srRegW .psr rs) s = .next { s with psr := p, flagr := 0#5, pcr := s.pcr + 4#32 }) ∧
    (∀ p, p = s.reg rs →
      (if s.isS then
        (∃ k, (k = 3 ∨ k = 4 ∨ 10 ≤ k) ∧ p.getLsbD k = true) ∨ p.extractLsb' 5 2 = 0b01#2 ∨ p.extractLsb' 5 2 = 0b10#2 ∨
        p.extractLsb' 0 2 = 0b11#2 ∨ (p.extractLsb' 0 2 ≠ 0b00#2 ∧ p.extractLsb' 0 2 ∉ s.cfg.mmuMods) ∨
        p.extractLsb' 7 3 ∈ [0b000#3, 0b110#3, 0b111#3] ∨ p.extractLsb' 7 3 ∉ s.cfg.mmuPageSizes
       else ∃ k, k ≠ 2 ∧ p.getLsbD k = true) →
      exec (.srRegW .psr rs) s = .refused .psrReserved) ∧
    (∀ r, s.isS = false → r ∉ [.psr, .frclr, .frchr, .pflagr, .ppcr, .ppsr] →
      exec (.srRegW r rs) s = .fault .typeEInvalid) ∧
    exec (.srRegW .frclr rs) s = .next { s with frclr := s.reg rs, flagr := 0#5, pcr := s.pcr + 4#32 } ∧
    exec (.srRegW .frchr rs) s = .next { s with frchr := s.reg rs, flagr := 0#5, pcr := s.pcr + 4#32 } ∧
    exec (.srRegW .pflagr rs) s =
      .next { s with pflagr := (s.reg rs).extractLsb' 0 5, flagr := 0#5, pcr := s.pcr + 4#32 } ∧
    exec (.srRegW .ppcr rs) s = .next { s with ppcr := s.reg rs, flagr := 0#5, pcr := s.pcr + 4#32 } ∧
    exec (.srRegW .ppsr rs) s = .next { s with ppsr := s.reg rs, flagr := 0#5, pcr := s.pcr + 4#32 } ∧
    (s.isS = true →
      exec (.srRegW .tidr rs) s = .next { s with tidr := s.reg rs, flagr := 0#5, pcr := s.pcr + 4#32 } ∧
      exec (.srRegW .pdtr rs) s = .next { s with pdtr := s.reg rs, flagr := 0#5, pcr := s.pcr + 4#32 } ∧
      exec (.srRegW .kpdtr rs) s = .next { s with kpdtr := s.reg rs, flagr := 0#5, pcr := s.pcr + 4#32 } ∧
      exec (.srRegW .tisr rs) s = .next { s with tisr := s.reg rs, flagr := 0#5, pcr := s.pcr + 4#32 } ∧
      exec (.srRegW .ppdtr rs) s = .next { s with ppdtr := s.reg rs, flagr := 0#5, pcr := s.pcr + 4#32 } ∧
      exec (.srRegW .ptidr rs) s = .next { s with ptidr := s.reg rs, flagr := 0#5, pcr := s.pcr + 4#32 })

/-- The FRCR copies (R178, R179): copy-out, in both modes, puts both halves of one sample into the buffers; copy-in, in
Kernel Mode, makes the counter the two buffers. Which mode may run which is a decision (R183, D29; log 38). The counter's
advance is free (D30, log 46). -/
def Obligations.FrcrCopies : Prop :=
  ∀ s : State,
    (∃ t, exec .frcrCopyOut s = .next t ∧ t.frchr.toNat * 2 ^ 32 + t.frclr.toNat = s.frcr.toNat ∧
      t = { s with frchr := t.frchr, frclr := t.frclr, flagr := 0#5, pcr := s.pcr + 4#32 }) ∧
    (s.kernel = true → ∃ t, exec .frcrCopyIn s = .next t ∧
      t.frcr.toNat = s.frchr.toNat * 2 ^ 32 + s.frclr.toNat ∧
      t = { s with frcr := t.frcr, flagr := 0#5, pcr := s.pcr + 4#32 })

/-- The TLB flush in Kernel Mode (R86, R180): what remains in the TLB is the PTEs that were there with G = 1. `sync`, in
both modes (R181): nothing but FLAGR and PCR changes. Both in Type-S. Which mode may run which is a decision (R183, D29;
log 38). That `sync` needs to do no more is a decision (D12, D13; log 48); the TLB is that of log 43. -/
def Obligations.TlbFlushAndSync : Prop :=
  ∀ s : State, s.isS = true →
    (s.kernel = true → ∃ t, exec .tlbFlush s = .next t ∧ (∀ e, e ∈ t.tlb ↔ e ∈ s.tlb ∧ e.pte.getLsbD 7 = true) ∧
      t = { s with tlb := t.tlb, flagr := 0#5, pcr := s.pcr + 4#32 }) ∧
    exec .sync s = .next { s with flagr := 0#5, pcr := s.pcr + 4#32 }

/-- A privileged instruction in User Mode (R183, R233): with USER_PRIV_FAULT off it is refused; with it on, interrupt 41
is entered with FI0R = PCR and PCR saved, and the instruction has none of its effect: nothing has changed but what entry
writes, and no request is taken from the pending set. Both readings are decisions (D29; logs 37, 38), and so are the saved
PC, Kernel Mode and FLAGR = 0 (D20, D21; log 30). -/
def Obligations.PrivilegedInUserMode : Prop :=
  ∀ (i : Instr) (s : State) (g : Word → Word), s.isS = true → s.kernel = false → isPrivileged i = true →
    afeFunction s.cfg (afeOf i) = some g →
    (s.cfg.userPrivFault = false → exec i s = .refused .privilegedInUserMode) ∧
    (∀ h, s.cfg.userPrivFault = true → s.Vector 41 h →
      ∃ t, exec i s = .next t ∧ s.EnteredFrom t ∧ s.KeptByEntry t ∧ s.EntryOnly t ∧ t.pcr = h ∧ t.ppcr = s.pcr ∧
        t.fi0r = s.pcr ∧ t.fi1r = s.fi1r ∧ t.pending = s.pending)

/-! ### Paging -/

/-- The page sizes of R77 with the split of the logical address for each (R78), whose parts make 32 bits, with a
second-level table of exactly one page, as R78 infers; the data accesses that each PP code grants to each mode (R82); and
that an instruction may be fetched where EX = 1 (R83) and, by decision, the mode may read (D18, log 41). -/
def Obligations.PagingTables : Prop :=
  (∀ k, k < 5 →
    geometry 0b10#2 (BitVec.ofNat 3 (k + 1)) = some ⟨true, 10 - 2 * k, 12 + k⟩ ∧
    4 * 2 ^ (32 - (10 - 2 * k) - (12 + k)) = 4096 * 2 ^ k ∧ 2 ^ (12 + k) = 4096 * 2 ^ k ∧
    geometry 0b01#2 (BitVec.ofNat 3 (k + 1)) = some ⟨false, 15 - k, 17 + k⟩ ∧
    (15 - k) + (17 + k) = 32 ∧ 2 ^ (17 + k) = 131072 * 2 ^ k) ∧
  (∀ mode, geometry mode 0b000#3 = none ∧ geometry mode 0b110#3 = none ∧ geometry mode 0b111#3 = none) ∧
  (∀ e : Word,
    (e.extractLsb' 4 2 = 0b00#2 → permits false .read e = true ∧ permits false .write e = true ∧
      permits true .read e = false ∧ permits true .write e = false) ∧
    (e.extractLsb' 4 2 = 0b01#2 → permits false .read e = true ∧ permits false .write e = false ∧
      permits true .read e = false ∧ permits true .write e = false) ∧
    (e.extractLsb' 4 2 = 0b10#2 → permits false .read e = true ∧ permits false .write e = true ∧
      permits true .read e = true ∧ permits true .write e = false) ∧
    (e.extractLsb' 4 2 = 0b11#2 → permits false .read e = true ∧ permits false .write e = true ∧
      permits true .read e = true ∧ permits true .write e = true) ∧
    (∀ user, permits user .fetch e = true ↔ e.getLsbD 3 = true ∧ permits user .read e = true))

/-- Translation by two levels of 4 KB pages (R79, R80, R84, R88, R90, R91), where the first PTE leads to a second: the
first gets A; an invalid second PTE raises 40, one that does not permit the access raises 41, both with the address; else
the physical address is the page index of the second PTE above the offset, and it gets A and, for a write, D. Every other
byte of memory is as before. Every copy of the two PTEs that the TLB then holds, under whatever ASID, is what memory
holds: the write-back updates the TLB at once (the TLB is that of log 43). The base of the first table is KPDTR in Kernel
Mode and PDTR in User Mode (R79), and the two indices of the address say where in the tables the PTEs are. Bases,
write-backs and the checks of the first PTE are decisions (D16, D17, D18; logs 41, 42). -/
def Obligations.TwoLevelTranslation : Prop :=
  (∀ s : State, (s.psr.extractLsb' 5 2 = 0b00#2 → s.tableBase = s.kpdtr) ∧
    (s.psr.extractLsb' 5 2 = 0b11#2 → s.tableBase = s.pdtr)) ∧
  ∀ (s : State) (va : Word) (acc : Access) (a1 a2 e1 e2 : Word), s.mem.wf = true → s.isS = true →
    s.psr.extractLsb' 0 2 = 0b10#2 → s.psr.extractLsb' 7 3 = 0b001#3 → s.cfg.mmuMods.contains 0b10#2 = true →
    s.cfg.mmuPageSizes.contains 0b001#3 = true → s.tableBase.toNat % 4096 = 0 →
    a1 = s.tableBase + 4#32 * (va.extractLsb' 22 10).zeroExtend 32 → s.physRead a1 = some e1 →
    e1.getLsbD 0 = true → e1.getLsbD 8 = false → e1.extractLsb' 4 2 = 0b11#2 → e1.getLsbD 3 = true →
    a2 = (e1.extractLsb' 12 20 ++ 0#12) + 4#32 * (va.extractLsb' 12 10).zeroExtend 32 → s.physRead a2 = some e2 →
    a1 ≠ a2 → (∀ t ∈ s.tlb, (t.addr = a1 → t.pte = e1) ∧ (t.addr = a2 → t.pte = e2)) →
    ∃ t, t = { s with mem := t.mem, tlb := t.tlb } ∧ t.physRead a1 = some (e1 ||| 2#32) ∧
      (∀ b, (b < a1.toNat ∨ a1.toNat + 4 ≤ b) → (b < a2.toNat ∨ a2.toNat + 4 ≤ b) → t.mem.read b = s.mem.read b) ∧
      (∀ x ∈ t.tlb, (x.addr = a1 → t.physRead a1 = some x.pte) ∧ (x.addr = a2 → t.physRead a2 = some x.pte)) ∧
      (e2.getLsbD 0 = false →
        (∃ bits, s.translate va acc = .raise ⟨40, some va, some bits⟩ t ∧
          bits.toNat = 8 + (if s.userMode then 4 else 0) + (if acc = .write then 2 else 0) +
            (if acc = .fetch then 1 else 0)) ∧ t.physRead a2 = some e2) ∧
      (e2.getLsbD 0 = true → e2.getLsbD 8 = false → permits s.userMode acc e2 = false →
        s.translate va acc = .raise ⟨41, some va, none⟩ t ∧ t.physRead a2 = some e2) ∧
      (e2.getLsbD 0 = true → e2.getLsbD 8 = false → permits s.userMode acc e2 = true →
        s.translate va acc = .ok (e2.extractLsb' 12 20 ++ va.extractLsb' 0 12) t ∧
          t.physRead a2 = some (e2 ||| if acc = .write then 6#32 else 2#32))

/-- Translation that ends at the first level (R84, R87, R90, R91), in 4 KB mode: an invalid PTE raises 40 with the address
and the bits invalid, user, write, fetch, and no state has changed; a PTE of extended size that does not permit the access
raises 41 with the address, and at most the TLB has changed; one that permits it gives the 4 MB page's index above the low
22 bits of the address, gets A and, for a write, D, and every other byte of memory is as before. That the check is made on
the final PTE only is a decision (D18, log 41), and so is the order of check and write-back (D17, log 42). -/
def Obligations.TranslationFaults : Prop :=
  ∀ (s : State) (va : Word) (acc : Access) (a1 e1 : Word), s.mem.wf = true → s.isS = true →
    s.psr.extractLsb' 0 2 = 0b10#2 → s.psr.extractLsb' 7 3 = 0b001#3 → s.cfg.mmuMods.contains 0b10#2 = true →
    s.cfg.mmuPageSizes.contains 0b001#3 = true → s.tableBase.toNat % 4096 = 0 →
    a1 = s.tableBase + 4#32 * (va.extractLsb' 22 10).zeroExtend 32 → s.physRead a1 = some e1 →
    (∀ t ∈ s.tlb, t.addr = a1 → t.pte = e1) →
    (e1.getLsbD 0 = false →
      ∃ bits, s.translate va acc = .raise ⟨40, some va, some bits⟩ s ∧
        bits.toNat = 8 + (if s.userMode then 4 else 0) + (if acc = .write then 2 else 0) +
          (if acc = .fetch then 1 else 0)) ∧
    (e1.getLsbD 0 = true → e1.getLsbD 8 = true → e1.extractLsb' 12 10 = 0#10 → permits s.userMode acc e1 = false →
      ∃ t, s.translate va acc = .raise ⟨41, some va, none⟩ t ∧ t = { s with tlb := t.tlb }) ∧
    (e1.getLsbD 0 = true → e1.getLsbD 8 = true → e1.extractLsb' 12 10 = 0#10 → permits s.userMode acc e1 = true →
      ∃ t, s.translate va acc = .ok (e1.extractLsb' 22 10 ++ va.extractLsb' 0 22) t ∧
        t = { s with mem := t.mem, tlb := t.tlb } ∧ t.physRead a1 = some (e1 ||| if acc = .write then 6#32 else 2#32) ∧
        SameOutside s.mem t.mem a1.toNat 4)

/-- A fault of translation in a load, a store, a push or a pop is entered with the instruction's own address saved (R217,
R222), on a state that differs from the one before in the TLB and in the four bytes of the first PTE alone: no register
and no data byte has been written. That faults are precise in this way is a decision (D34, log 52), that the A flag of the
first PTE stays written is one (D17, log 42), and so is the saved PC (D21, log 30). -/
def Obligations.TranslationFaultIsEntered : Prop :=
  ∀ (s s1 : State) (c : Cause) (afe : Code) (g : Word → Word) (rd : Reg), afeFunction s.cfg afe = some g →
    (∀ (w : Width) (ea : Operand), (s.operand ea).toNat % w.bytes = 0 →
      (s.translate (s.operand ea) .read = .raise c s1 → exec (loadOf w afe rd ea) s = s1.enter c s.pcr) ∧
      (s.translate (s.operand ea) .write = .raise c s1 → exec (storeOf w afe rd ea) s = s1.enter c s.pcr)) ∧
    (s.pushAddr.toNat % 4 = 0 → s.translate s.pushAddr .write = .raise c s1 →
      exec (.push afe rd) s = s1.enter c s.pcr ∧ exec .ppush s = s1.enter c s.pcr) ∧
    (s.popAddr.toNat % 4 = 0 → s.translate s.popAddr .read = .raise c s1 →
      exec (.pop afe rd) s = s1.enter c s.pcr) ∧
    (∀ va acc, s.translate va acc = .raise c s1 →
      s1 = { s with mem := s1.mem, tlb := s1.tlb } ∧
      ∃ geo, pagingOf s.cfg (psrMmuMod s.psr) (psrMmuPs s.psr) = some geo ∧
        SameOutside s.mem s1.mem (s.firstPteAddr va geo).toNat 4)
end

