-- ==== Sys2Proof/Laws/Bits.lean ====
section
/-! SUPPORT. The fields of an assembled word, and the immediates that survive encoding and decoding. -/

namespace Sys2Proof

/-- Bit `i` of an assembled word is the bit of the field that holds it (R122). -/
theorem getLsbD_assemble (op : BitVec 10) (f : BitVec 1) (c : Code) (m : BitVec 6) (d r : BitVec 5) (i : Nat) :
    (assemble op f c m d r).getLsbD i =
      if i < 5 then r.getLsbD i else if i < 10 then d.getLsbD (i - 5) else if i < 16 then m.getLsbD (i - 10)
      else if i < 20 then c.getLsbD (i - 16) else if i < 21 then f.getLsbD (i - 20) else op.getLsbD (i - 21) := by
  unfold assemble
  simp only [BitVec.getLsbD_append, BitVec.getLsbD_zero]
  by_cases h1 : i < 5
  · simp [h1]
  by_cases h2 : i < 10
  · simp [h1, h2, show i - 5 < 5 by omega]
  by_cases h3 : i < 16
  · simp [h1, h2, h3, show ¬ i - 5 < 5 by omega, show i - 5 - 5 = i - 10 by omega]
    omega
  by_cases h4 : i < 20
  · simp [h1, h2, h3, h4, show ¬ i - 5 < 5 by omega, show ¬ i - 5 - 5 < 6 by omega, show i - 5 - 5 - 6 = i - 16 by omega]
    omega
  by_cases h5 : i < 21
  · simp [h1, h2, h3, h4, h5, show ¬ i - 5 < 5 by omega, show ¬ i - 5 - 5 < 6 by omega, show ¬ i - 5 - 5 - 6 < 4 by omega, show i - 5 - 5 - 6 - 4 = i - 20 by omega, show i - 20 < 1 by omega]
  · simp [h1, h2, h3, h4, h5, show ¬ i - 5 < 5 by omega, show ¬ i - 5 - 5 < 6 by omega, show ¬ i - 5 - 5 - 6 < 4 by omega, show i - 5 - 5 - 6 - 4 - 1= i - 21 by omega, show ¬ i - 5 - 5 - 6 - 4 < 1 by omega]
    by_cases h6 : i - 21 < 10
    · simp [h6]
    · simp [h6, BitVec.getLsbD_of_ge op (i - 21) (by omega)]

/-- Each field of an assembled word reads back (R122). -/
theorem field_assemble (op : BitVec 10) (f : BitVec 1) (c : Code) (m : BitVec 6) (d r : BitVec 5) :
    opcodeField (assemble op f c m d r) = op ∧ immFlagField (assemble op f c m d r) = f ∧
    codeField (assemble op f c m d r) = c ∧ midField (assemble op f c m d r) = m ∧
    rdField (assemble op f c m d r) = d ∧ rsField (assemble op f c m d r) = r ∧
    (assemble op f c m d r).extractLsb' 31 1 = 0#1 := by
  refine ⟨?_, ?_, ?_, ?_, ?_, ?_, ?_⟩ <;> apply BitVec.eq_of_getLsbD_eq <;> intro i hi <;>
    simp only [opcodeField, immFlagField, codeField, midField, rdField, rsField, BitVec.getLsbD_extractLsb', getLsbD_assemble]
  · simp [hi, show ¬ 21 + i < 5 by omega, show ¬ 21 + i < 10 by omega, show ¬ 21 + i < 16 by omega, show ¬ 21 + i < 20 by omega]
  · simp [show i = 0 by omega]
  · simp [hi, show ¬ 16 + i < 5 by omega, show ¬ 16 + i < 10 by omega, show ¬ 16 + i < 16 by omega, show 16 + i < 20 by omega]
  · simp [hi, show ¬ 10 + i < 5 by omega, show ¬ 10 + i < 10 by omega, show 10 + i < 16 by omega]
  · simp [hi, show ¬ 5 + i < 5 by omega, show 5 + i < 10 by omega]
  · simp [hi]
  · simp [show i = 0 by omega]

/-- A word whose bit 31 is 0 is its fields. -/
theorem assemble_fields (w : Word) (h : w.extractLsb' 31 1 = 0#1) :
    assemble (opcodeField w) (immFlagField w) (codeField w) (midField w) (rdField w) (rsField w) = w := by
  have h31 : w.getLsbD 31 = false := by
    have := congrArg (·.getLsbD 0) h
    simpa using this
  apply BitVec.eq_of_getLsbD_eq
  intro i hi
  rw [getLsbD_assemble]
  simp only [opcodeField, immFlagField, codeField, midField, rdField, rsField, BitVec.getLsbD_extractLsb']
  split
  · simp [*]
  · split
    · simp [show i - 5 < 5 by omega, show 5 + (i - 5) = i by omega]
    · split
      · simp [show i - 10 < 6 by omega, show 10 + (i - 10) = i by omega]
      · split
        · simp [show i - 16 < 4 by omega, show 16 + (i - 16) = i by omega]
        · split
          · simp [show i - 20 < 1 by omega, show 20 + (i - 20) = i by omega]
          · by_cases hh : i = 31
            · subst hh; rw [h31]; simp
            · simp [show i - 21 < 10 by omega, show 21 + (i - 21) = i by omega]

/-- An 11-bit immediate is its two parts. -/
theorem imm11_split (v : BitVec 11) : v.extractLsb' 5 6 ++ v.extractLsb' 0 5 = v := by
  apply BitVec.eq_of_getLsbD_eq; intro i hi
  simp only [BitVec.getLsbD_append, BitVec.getLsbD_extractLsb']
  by_cases h : i < 5
  · simp [h]
  · simp [h, show i - 5 < 6 by omega, show 5 + (i - 5) = i by omega]

/-- A value that an I11 immediate can denote comes back from its two parts (R122). -/
theorem imm11_roundtrip (v : Word) (h : fitsImm11 v = true) :
    imm11Value (v.extractLsb' 5 6 ++ v.extractLsb' 0 5) = v := by
  simp only [fitsImm11, Bool.and_eq_true, decide_eq_true_eq] at h
  have : v.extractLsb' 5 6 ++ v.extractLsb' 0 5 = v.setWidth 11 := by
    apply BitVec.eq_of_getLsbD_eq; intro i hi
    simp only [BitVec.getLsbD_append, BitVec.getLsbD_extractLsb', BitVec.getLsbD_setWidth]
    by_cases h : i < 5
    · simp [h, hi]
    · simp [h, show i - 5 < 6 by omega, show 5 + (i - 5) = i by omega, hi]
  rw [this]
  apply BitVec.eq_of_toInt_eq
  rw [imm11Value, BitVec.toInt_signExtend_of_le (by omega)]
  rw [BitVec.toInt_setWidth]
  rw [Int.bmod_def]
  have e1 := BitVec.toInt_eq_toNat_bmod v
  have : v.toInt = if v.toNat < 2^31 then (v.toNat : Int) else v.toNat - 2^32 := by
    rw [BitVec.toInt_eq_toNat_cond]; split <;> split <;> omega
  have := v.isLt
  split at * <;> split <;> omega

/-- Every I11 immediate denotes a value that fits. -/
theorem imm11_fits (v : BitVec 11) : fitsImm11 (imm11Value v) = true := by
  have e : (imm11Value v).toInt = v.toInt := BitVec.toInt_signExtend_of_le (by omega)
  simp only [fitsImm11, Bool.and_eq_true, decide_eq_true_eq, e]
  have := BitVec.toInt_lt (x := v); have := BitVec.le_toInt (x := v)
  constructor <;> norm_num at * <;> omega

/-- The two parts of the value of an I11 immediate are the parts of the immediate. -/
theorem imm11Value_bits (v : BitVec 11) : (imm11Value v).extractLsb' 5 6 = v.extractLsb' 5 6 ∧ (imm11Value v).extractLsb' 0 5 = v.extractLsb' 0 5 := by
  constructor <;> apply BitVec.eq_of_getLsbD_eq <;> intro i hi <;>
    simp only [imm11Value, BitVec.getLsbD_extractLsb', BitVec.getLsbD_signExtend]
  · simp [hi, show 5 + i < 32 by omega, show 5 + i < 11 by omega]
  · simp [hi, show i < 32 by omega, show i < 11 by omega]

/-- The two parts of a joined I11 immediate. -/
theorem imm11_parts (m : BitVec 6) (r : BitVec 5) : (m ++ r).extractLsb' 5 6 = m ∧ (m ++ r).extractLsb' 0 5 = r := by
  constructor <;> apply BitVec.eq_of_getLsbD_eq <;> intro i hi <;>
    simp only [BitVec.getLsbD_extractLsb', BitVec.getLsbD_append]
  · simp [hi]
  · simp [hi]

/-- A 16-bit immediate comes back from its four parts (R122). -/
theorem imm16_roundtrip (v : BitVec 16) :
    v.extractLsb' 15 1 ++ v.extractLsb' 11 4 ++ v.extractLsb' 5 6 ++ v.extractLsb' 0 5 = v := by
  apply BitVec.eq_of_getLsbD_eq; intro i hi
  simp only [BitVec.getLsbD_append, BitVec.getLsbD_extractLsb']
  by_cases h : i < 5
  · simp [h]
  by_cases h2 : i < 11
  · simp [h, show i - 5 < 6 by omega, show 5 + (i - 5) = i by omega]
  by_cases h3 : i < 15
  · simp [h, show ¬ i - 5 < 6 by omega, show i - 5 - 6 < 4 by omega, show 11 + (i - 5 - 6) = i by omega]
  · have : i = 15 := by omega
    subst this; simp

/-- The four parts of a joined I16 immediate. -/
theorem imm16_parts (f : BitVec 1) (c : BitVec 4) (m : BitVec 6) (r : BitVec 5) :
    (f ++ c ++ m ++ r).extractLsb' 15 1 = f ∧ (f ++ c ++ m ++ r).extractLsb' 11 4 = c ∧
    (f ++ c ++ m ++ r).extractLsb' 5 6 = m ∧ (f ++ c ++ m ++ r).extractLsb' 0 5 = r := by
  refine ⟨?_, ?_, ?_, ?_⟩ <;> apply BitVec.eq_of_getLsbD_eq <;> intro i hi <;>
    simp only [BitVec.getLsbD_extractLsb', BitVec.getLsbD_append]
  · simp [show i = 0 by omega]
  · simp [hi, show ¬ 11 + i < 5 by omega, show 11 + i - 5 = 6 + i by omega]
  · simp [hi]
  · simp [hi]

/-- The jump immediate of an assembled word is its low 16 bits (R122). -/
theorem jumpField_assemble (op f c) (m : BitVec 6) (d r : BitVec 5) :
    jumpField (assemble op f c m d r) = m ++ d ++ r := by
  apply BitVec.eq_of_getLsbD_eq; intro i hi
  simp only [jumpField, BitVec.getLsbD_extractLsb', getLsbD_assemble, BitVec.getLsbD_append]
  simp only [Nat.zero_add, hi, decide_true, Bool.true_and]
  split
  · rfl
  · split
    · simp [show i - 5 < 5 by omega]
    · simp [show ¬ i - 5 < 5 by omega, show i - 5 - 5 = i - 10 by omega]

/-- A target that a JI16 immediate can denote comes back from its parts. -/
theorem jump_roundtrip (t : Word) (h : fitsJump t = true) :
    jumpValue (t.extractLsb' 12 6 ++ t.extractLsb' 7 5 ++ t.extractLsb' 2 5) = t := by
  simp only [fitsJump, Bool.and_eq_true, decide_eq_true_eq] at h
  have hb : ∀ i, 18 ≤ i → t.getLsbD i = false := by
    intro i hi
    apply BitVec.testBit_toNat t ▸ Nat.testBit_lt_two_pow (lt_of_lt_of_le h.2 (Nat.pow_le_pow_right (by omega) hi))
  have h0 : t.getLsbD 0 = false ∧ t.getLsbD 1 = false := by
    rw [← BitVec.testBit_toNat, ← BitVec.testBit_toNat]
    constructor <;> simp [Nat.testBit_eq_decide_div_mod_eq] <;> omega
  apply BitVec.eq_of_getLsbD_eq; intro i hi
  simp only [jumpValue, BitVec.getLsbD_shiftLeft, BitVec.zeroExtend, BitVec.getLsbD_setWidth, BitVec.getLsbD_append, BitVec.getLsbD_extractLsb']
  by_cases h1 : i < 2
  · have : i = 0 ∨ i = 1 := by omega
    rcases this with rfl | rfl
    · rw [h0.1]; simp
    · rw [h0.2]; simp
  by_cases h2 : i < 18
  · simp only [hi, h1, decide_true, Bool.true_and, decide_false, Bool.not_false, show i - 2 < 32 by omega]
    split
    · rw [show 2 + (i - 2) = i by omega]; simp [*]
    · split
      · rw [show 7 + (i - 2 - 5) = i by omega]; simp [*]
      · rw [show 12 + (i - 2 - 5 - 5) = i by omega]; simp [show i - 2 - 5 - 5 < 6 by omega]
  · rw [hb i (by omega)]
    simp [show ¬ i - 2 < 5 by omega, show ¬ i - 2 - 5 < 5 by omega]
    intros; omega

/-- Every JI16 immediate denotes a target that fits. -/
theorem jump_fits (v : BitVec 16) : fitsJump (jumpValue v) = true := by
  have : (jumpValue v).toNat = v.toNat * 4 := by
    simp [jumpValue, BitVec.toNat_shiftLeft, Nat.shiftLeft_eq]
    have := v.isLt; omega
  have := v.isLt
  simp only [fitsJump, Bool.and_eq_true, decide_eq_true_eq]
  omega

/-- The parts of the target of a JI16 immediate are the parts of the immediate. -/
theorem jumpValue_bits (m : BitVec 6) (d r : BitVec 5) :
   (jumpValue (m ++ d ++ r)).extractLsb' 12 6 = m ∧ (jumpValue (m ++ d ++ r)).extractLsb' 7 5 = d ∧ (jumpValue (m ++ d ++ r)).extractLsb' 2 5 = r := by
  refine ⟨?_, ?_, ?_⟩ <;> apply BitVec.eq_of_getLsbD_eq <;> intro i hi <;>
    simp only [jumpValue, BitVec.getLsbD_extractLsb', BitVec.getLsbD_shiftLeft, BitVec.zeroExtend, BitVec.getLsbD_setWidth, BitVec.getLsbD_append]
  · simp [hi, show 12 + i < 32 by omega, show 12 + i - 2 = 10 + i by omega, show 10 + i < 32 by omega, show ¬ 10 + i < 5 by omega, show 10 + i - 5 = 5 + i by omega]
    intros; omega
  · simp [hi, show 7 + i < 32 by omega, show 7 + i - 2 = 5 + i by omega, show 5 + i < 32 by omega]
    intros; omega
  · simp [hi, show 2 + i < 32 by omega, show i < 32 by omega]
    intros; omega

/-- A condition code is the one of its own code (R115). -/
theorem cond_code (cc : Cond) : condOfCode (codeOfCond cc) = cc := by cases cc <;> rfl
/-- A code is the code of its condition (R115). -/
theorem code_cond (c : Code) : codeOfCond (condOfCode c) = c := by revert c; decide
/-- One bit is 0 or 1. -/
theorem flag01 (f : BitVec 1) : f = 0#1 ∨ f = 1#1 := by revert f; decide

end Sys2Proof
end

