-- ==== Sys2Proof/Laws/Memory.lean ====
section
/-! SUPPORT. Memory: a write changes the byte written and no other, every operation keeps the canonical form, and a
big-endian read gives back what a big-endian write of the same width stored. -/

namespace Sys2Proof.Machine

@[simp] theorem Memory.read_nil (a : Nat) : Memory.read [] a = Memory.unlisted := rfl

theorem Memory.wfFrom_mono {lo lo' : Nat} (h : lo' ≤ lo) {m : Memory} (hm : m.wfFrom lo = true) :
    m.wfFrom lo' = true := by
  cases m with
  | nil => rfl
  | cons c rest =>
    obtain ⟨x, b⟩ := c
    simp only [Memory.wfFrom, Bool.and_eq_true, decide_eq_true_eq] at hm ⊢
    exact ⟨⟨by omega, hm.1.2⟩, hm.2⟩

/-- Below the first listed address nothing is listed. -/
theorem Memory.read_below {lo a : Nat} {m : Memory} (hm : m.wfFrom lo = true) (h : a < lo) :
    m.read a = Memory.unlisted := by
  induction m generalizing lo with
  | nil => rfl
  | cons c rest ih =>
    obtain ⟨x, b⟩ := c
    simp only [Memory.wfFrom, Bool.and_eq_true, decide_eq_true_eq] at hm
    have : x ≠ a := by omega
    simp only [Memory.read, this, if_false]
    exact ih hm.2 (by omega)

/-- A byte other than the one written reads as before. -/
theorem Memory.read_write_ne (m : Memory) {a b : Nat} (v : Byte) (h : b ≠ a) : (m.write a v).read b = m.read b := by
  induction m with
  | nil => by_cases hv : v = Memory.unlisted <;> simp [Memory.write, Memory.read, hv, Ne.symm h]
  | cons c rest ih =>
    obtain ⟨x, y⟩ := c
    simp only [Memory.write]
    split
    · split <;> simp [Memory.read, Ne.symm h]
    · split
      · subst_vars
        split <;> simp [Memory.read, Ne.symm h]
      · simp only [Memory.read, ih]

/-- In canonical memory the byte written reads as written. -/
theorem Memory.read_write_same_from {lo : Nat} {m : Memory} (hm : m.wfFrom lo = true) (a : Nat) (v : Byte) :
    (m.write a v).read a = v := by
  induction m generalizing lo with
  | nil => by_cases hv : v = Memory.unlisted <;> simp [Memory.write, Memory.read, hv]
  | cons c rest ih =>
    obtain ⟨x, y⟩ := c
    simp only [Memory.wfFrom, Bool.and_eq_true, decide_eq_true_eq] at hm
    simp only [Memory.write]
    split
    · split
      · subst_vars
        have : x ≠ a := by omega
        simp only [Memory.read, this, if_false]
        exact Memory.read_below hm.2 (by omega)
      · simp [Memory.read]
    · split
      · subst_vars
        split
        · subst_vars
          exact Memory.read_below hm.2 (by omega)
        · simp [Memory.read]
      · have : x ≠ a := by omega
        simp only [Memory.read, this, if_false]
        exact ih hm.2

theorem Memory.read_write_same {m : Memory} (hm : m.wf = true) (a : Nat) (v : Byte) : (m.write a v).read a = v :=
  Memory.read_write_same_from hm a v

theorem Memory.wfFrom_write {lo : Nat} {m : Memory} (hm : m.wfFrom lo = true) {a : Nat} (h : lo ≤ a) (v : Byte) :
    (m.write a v).wfFrom lo = true := by
  induction m generalizing lo with
  | nil => by_cases hv : v = Memory.unlisted <;> simp [Memory.write, Memory.wfFrom, hv, h]
  | cons c rest ih =>
    obtain ⟨x, y⟩ := c
    simp only [Memory.write]
    have hm' := hm
    simp only [Memory.wfFrom, Bool.and_eq_true, decide_eq_true_eq] at hm
    split
    · split
      · exact hm'
      · simp only [Memory.wfFrom, Bool.and_eq_true, decide_eq_true_eq, bne_iff_ne, ne_eq]
        refine ⟨⟨h, ‹_›⟩, ⟨by omega, by simpa using hm.1.2⟩, hm.2⟩
    · split
      · subst_vars
        split
        · exact Memory.wfFrom_mono (by omega) hm.2
        · simp only [Memory.wfFrom, Bool.and_eq_true, decide_eq_true_eq, bne_iff_ne, ne_eq]
          exact ⟨⟨h, ‹_›⟩, hm.2⟩
      · simp only [Memory.wfFrom, Bool.and_eq_true, decide_eq_true_eq]
        exact ⟨hm.1, ih hm.2 (by omega)⟩

/-- A byte store keeps the canonical form. -/
theorem Memory.wf_write {m : Memory} (hm : m.wf = true) (a : Nat) (v : Byte) : (m.write a v).wf = true :=
  Memory.wfFrom_write hm (Nat.zero_le a) v

/-- A store of several bytes keeps the canonical form. -/
theorem Memory.wf_writeBE {m : Memory} (hm : m.wf = true) (a n : Nat) (v : Word) : (m.writeBE a n v).wf = true := by
  induction n generalizing v with
  | zero => exact hm
  | succ n ih => exact Memory.wf_write (ih _) _ _

/-- Bytes outside a store read as before. -/
theorem Memory.read_writeBE_outside (m : Memory) (a n : Nat) (v : Word) {b : Nat} (h : b < a ∨ a + n ≤ b) :
    (m.writeBE a n v).read b = m.read b := by
  induction n generalizing v with
  | zero => rfl
  | succ n ih =>
    rw [Memory.writeBE, Memory.read_write_ne _ _ (by omega), ih _ (by omega)]

/-- A read of bytes that read alike gives the same value. -/
theorem Memory.readBE_congr {m m' : Memory} {a n : Nat} (h : ∀ k, k < n → m'.read (a + k) = m.read (a + k)) :
    m'.readBE a n = m.readBE a n := by
  induction n with
  | zero => rfl
  | succ n ih =>
    rw [Memory.readBE, Memory.readBE, ih (fun k hk => h k (by omega)), h n (by omega)]

/-- A read that does not overlap a store gives what it gave before. -/
theorem Memory.readBE_writeBE_outside (m : Memory) {a n b k : Nat} (v : Word) (h : b + k ≤ a ∨ a + n ≤ b) :
    (m.writeBE a n v).readBE b k = m.readBE b k :=
  Memory.readBE_congr fun i hi => Memory.read_writeBE_outside m a n v (by omega)

/-- Bit by bit, what a read gives after a write of the same width. -/
theorem Memory.getLsbD_readBE_writeBE {m : Memory} (hm : m.wf = true) (a n : Nat) (v : Word) (i : Nat) (hi : i < 32) :
    ((m.writeBE a n v).readBE a n).getLsbD i = (decide (i < 8 * n) && v.getLsbD i) := by
  induction n generalizing v i with
  | zero => simp [Memory.readBE]
  | succ n ih =>
    have hcongr : ((m.writeBE a (n + 1) v).readBE a n) = ((m.writeBE a n (v >>> 8)).readBE a n) :=
      Memory.readBE_congr fun k hk => Memory.read_write_ne _ _ (by omega)
    rw [Memory.readBE, hcongr]
    have hlast : (m.writeBE a (n + 1) v).read (a + n) = v.setWidth 8 :=
      Memory.read_write_same (Memory.wf_writeBE hm _ _ _) _ _
    rw [hlast]
    simp only [BitVec.getLsbD_or, BitVec.getLsbD_shiftLeft, BitVec.truncate_eq_setWidth, BitVec.getLsbD_setWidth]
    by_cases h8 : i < 8
    · have h1 : i < 8 * (n + 1) := by omega
      simp [h8, h1, hi]
    · have hlt : i - 8 < 32 := by omega
      rw [ih (v >>> 8) (i - 8) hlt]
      have e : 8 + (i - 8) = i := by omega
      have hd : decide (i - 8 < 8 * n) = decide (i < 8 * (n + 1)) := by
        apply decide_eq_decide.mpr; omega
      simp [h8, hi, e, hd, BitVec.getLsbD_ushiftRight]

/-- A word written reads back. -/
theorem Memory.readBE_writeBE_word {m : Memory} (hm : m.wf = true) (a : Nat) (v : Word) :
    (m.writeBE a 4 v).readBE a 4 = v := by
  apply BitVec.eq_of_getLsbD_eq
  intro i hi
  rw [Memory.getLsbD_readBE_writeBE hm a 4 v i hi]
  simp [show i < 8 * 4 by omega]

/-- Bit `i` of a big-endian read of `n` bytes: the byte that holds it, counted from the last (R62). -/
theorem Memory.getLsbD_readBE (m : Memory) (a n : Nat) (i : Nat) (hi : i < 32) :
    (m.readBE a n).getLsbD i = (decide (i < 8 * n) && (m.read (a + (n - 1 - i / 8))).getLsbD (i % 8)) := by
  induction n generalizing i with
  | zero => simp [Memory.readBE]
  | succ n ih =>
    simp only [Memory.readBE, BitVec.getLsbD_or, BitVec.getLsbD_shiftLeft, BitVec.zeroExtend, BitVec.getLsbD_setWidth, hi, decide_true, Bool.true_and]
    by_cases h : i < 8
    · have h1 : i / 8 = 0 := by omega
      have h2 : i % 8 = i := by omega
      simp [h, h1, h2, show i < 8 * (n + 1) by omega]
    · rw [ih (i - 8) (by omega)]
      have h1 : (i - 8) / 8 = i / 8 - 1 := by omega
      have h2 : (i - 8) % 8 = i % 8 := by omega
      have h3 : n + 1 - 1 - i / 8 = n - 1 - (i / 8 - 1) := by omega
      have h4 : (decide (i - 8 < 8 * n)) = decide (i < 8 * (n + 1)) := by
        rw [decide_eq_decide]; omega
      simp only [h, h1, h2, h3, h4, decide_false, Bool.not_false, Bool.true_and, BitVec.getLsbD_of_ge _ i (by omega : 8 ≤ i), Bool.or_false]

/-- A read of four bytes, byte by byte (R62). -/
theorem Memory.readBE_four (m : Memory) (a : Nat) :
    m.readBE a 4 = m.read a ++ m.read (a + 1) ++ m.read (a + 2) ++ m.read (a + 3) := by
  apply BitVec.eq_of_getLsbD_eq
  intro i hi
  rw [Memory.getLsbD_readBE m a 4 i hi]
  simp only [BitVec.getLsbD_append, show i < 8 * 4 from hi, decide_true, Bool.true_and]
  have : i / 8 = 0 ∨ i / 8 = 1 ∨ i / 8 = 2 ∨ i / 8 = 3 := by omega
  rcases this with h | h | h | h <;> rw [h]
  · simp [show i < 8 by omega, show i % 8 = i by omega]
  · simp [show ¬ i < 8 by omega, show i - 8 < 8 by omega, show i % 8 = i - 8 by omega]
  · simp [show ¬ i < 8 by omega, show ¬ i - 8 < 8 by omega, show i - 8 - 8 < 8 by omega, show i % 8 = i - 8 - 8 by omega]
  · simp [show ¬ i < 8 by omega, show ¬ i - 8 < 8 by omega, show ¬ i - 8 - 8 < 8 by omega, show i % 8 = i - 8 - 8 - 8 by omega]

/-- A read of two bytes, byte by byte (R62). -/
theorem Memory.readBE_two (m : Memory) (a : Nat) :
    m.readBE a 2 = (m.read a ++ m.read (a + 1)).zeroExtend 32 := by
  apply BitVec.eq_of_getLsbD_eq
  intro i hi
  rw [Memory.getLsbD_readBE m a 2 i hi]
  simp only [BitVec.zeroExtend, BitVec.getLsbD_setWidth, BitVec.getLsbD_append, hi, decide_true, Bool.true_and]
  by_cases h : i < 8
  · simp [h, show i < 8 * 2 by omega, show i / 8 = 0 by omega, show i % 8 = i by omega]
  · by_cases h2 : i < 16
    · simp [h, show i < 8 * 2 by omega, show i / 8 = 1 by omega, show i % 8 = i - 8 by omega]
    · rw [BitVec.getLsbD_of_ge _ (i - 8) (by omega)]
      simp [h, show ¬ i < 8 * 2 by omega]

/-- A read of one byte (R62). -/
theorem Memory.readBE_one (m : Memory) (a : Nat) : m.readBE a 1 = (m.read a).zeroExtend 32 := by
  simp [Memory.readBE]

/-- A read of `n` bytes is below `2 ^ (8 n)`. -/
theorem Memory.readBE_lt (m : Memory) (a n : Nat) : (m.readBE a n).toNat < 2 ^ (8 * n) := by
  apply Nat.lt_pow_two_of_testBit
  intro i hi
  rw [BitVec.testBit_toNat]
  by_cases h2 : i < 32
  · rw [Memory.getLsbD_readBE m a n i h2]; simp [show ¬ i < 8 * n by omega]
  · exact BitVec.getLsbD_of_ge _ _ (by omega)

/-- Byte `k` of a read is the byte of memory it came from (R62). -/
theorem Memory.extract_readBE (m : Memory) (a n k : Nat) (hn : n ≤ 4) (hk : k < n) :
    (m.readBE a n).extractLsb' (8 * (n - 1 - k)) 8 = m.read (a + k) := by
  apply BitVec.eq_of_getLsbD_eq
  intro i hi
  rw [BitVec.getLsbD_extractLsb', Memory.getLsbD_readBE m a n _ (by omega)]
  have h1 : (8 * (n - 1 - k) + i) / 8 = n - 1 - k := by omega
  have h2 : (8 * (n - 1 - k) + i) % 8 = i := by omega
  have h3 : n - 1 - (n - 1 - k) = k := by omega
  simp only [h1, h2, h3, hi, decide_true, Bool.true_and, show 8 * (n - 1 - k) + i < 8 * n by omega]

/-- Byte `k` after a write of `n` bytes is the `k`-th byte of the value (R62). -/
theorem Memory.read_writeBE {m : Memory} (hm : m.wf = true) (a n k : Nat) (v : Word) (hk : k < n) (hn : n ≤ 4) :
    (m.writeBE a n v).read (a + k) = v.extractLsb' (8 * (n - 1 - k)) 8 := by
  induction n generalizing v with
  | zero => omega
  | succ n ih =>
    simp only [Memory.writeBE]
    by_cases h : k = n
    · subst h
      rw [Memory.read_write_same (Memory.wf_writeBE hm _ _ _)]
      apply BitVec.eq_of_getLsbD_eq; intro i hi
      simp [hi]
    · rw [Memory.read_write_ne _ _ (by omega), ih _ (by omega) (by omega)]
      apply BitVec.eq_of_getLsbD_eq; intro i hi
      simp only [BitVec.getLsbD_extractLsb', BitVec.getLsbD_ushiftRight, hi, decide_true, Bool.true_and]
      congr 1; omega

end Sys2Proof.Machine
end

