-- ==== Sys2Proof/Laws/State.lean ====
section
/-! SUPPORT. What each named update does to each field: one lemma per field per update, so that no later proof unfolds a
record update. -/

namespace Sys2Proof.Machine

/-! ### `setReg` -/

@[simp] theorem State.setReg_cfg (s : State) (r : Reg) (v : Word) : (s.setReg r v).cfg = s.cfg := rfl
@[simp] theorem State.setReg_gpr (s : State) (r : Reg) (v : Word) : (s.setReg r v).gpr = s.gpr.set r.toNat v r.isLt := rfl
@[simp] theorem State.setReg_pcr (s : State) (r : Reg) (v : Word) : (s.setReg r v).pcr = s.pcr := rfl
@[simp] theorem State.setReg_flagr (s : State) (r : Reg) (v : Word) : (s.setReg r v).flagr = s.flagr := rfl
@[simp] theorem State.setReg_spr (s : State) (r : Reg) (v : Word) : (s.setReg r v).spr = s.spr := rfl
@[simp] theorem State.setReg_psr (s : State) (r : Reg) (v : Word) : (s.setReg r v).psr = s.psr := rfl
@[simp] theorem State.setReg_cpuidr (s : State) (r : Reg) (v : Word) : (s.setReg r v).cpuidr = s.cpuidr := rfl
@[simp] theorem State.setReg_coreidr (s : State) (r : Reg) (v : Word) : (s.setReg r v).coreidr = s.coreidr := rfl
@[simp] theorem State.setReg_tidr (s : State) (r : Reg) (v : Word) : (s.setReg r v).tidr = s.tidr := rfl
@[simp] theorem State.setReg_iosar (s : State) (r : Reg) (v : Word) : (s.setReg r v).iosar = s.iosar := rfl
@[simp] theorem State.setReg_pdtr (s : State) (r : Reg) (v : Word) : (s.setReg r v).pdtr = s.pdtr := rfl
@[simp] theorem State.setReg_kpdtr (s : State) (r : Reg) (v : Word) : (s.setReg r v).kpdtr = s.kpdtr := rfl
@[simp] theorem State.setReg_tisr (s : State) (r : Reg) (v : Word) : (s.setReg r v).tisr = s.tisr := rfl
@[simp] theorem State.setReg_idtr (s : State) (r : Reg) (v : Word) : (s.setReg r v).idtr = s.idtr := rfl
@[simp] theorem State.setReg_fi0r (s : State) (r : Reg) (v : Word) : (s.setReg r v).fi0r = s.fi0r := rfl
@[simp] theorem State.setReg_fi1r (s : State) (r : Reg) (v : Word) : (s.setReg r v).fi1r = s.fi1r := rfl
@[simp] theorem State.setReg_frcr (s : State) (r : Reg) (v : Word) : (s.setReg r v).frcr = s.frcr := rfl
@[simp] theorem State.setReg_frclr (s : State) (r : Reg) (v : Word) : (s.setReg r v).frclr = s.frclr := rfl
@[simp] theorem State.setReg_frchr (s : State) (r : Reg) (v : Word) : (s.setReg r v).frchr = s.frchr := rfl
@[simp] theorem State.setReg_pflagr (s : State) (r : Reg) (v : Word) : (s.setReg r v).pflagr = s.pflagr := rfl
@[simp] theorem State.setReg_ppcr (s : State) (r : Reg) (v : Word) : (s.setReg r v).ppcr = s.ppcr := rfl
@[simp] theorem State.setReg_ppsr (s : State) (r : Reg) (v : Word) : (s.setReg r v).ppsr = s.ppsr := rfl
@[simp] theorem State.setReg_ppdtr (s : State) (r : Reg) (v : Word) : (s.setReg r v).ppdtr = s.ppdtr := rfl
@[simp] theorem State.setReg_ptidr (s : State) (r : Reg) (v : Word) : (s.setReg r v).ptidr = s.ptidr := rfl
@[simp] theorem State.setReg_idtc (s : State) (r : Reg) (v : Word) : (s.setReg r v).idtc = s.idtc := rfl
@[simp] theorem State.setReg_tlb (s : State) (r : Reg) (v : Word) : (s.setReg r v).tlb = s.tlb := rfl
@[simp] theorem State.setReg_dps (s : State) (r : Reg) (v : Word) : (s.setReg r v).dps = s.dps := rfl
@[simp] theorem State.setReg_gci (s : State) (r : Reg) (v : Word) : (s.setReg r v).gci = s.gci := rfl
@[simp] theorem State.setReg_pending (s : State) (r : Reg) (v : Word) : (s.setReg r v).pending = s.pending := rfl
@[simp] theorem State.setReg_mem (s : State) (r : Reg) (v : Word) : (s.setReg r v).mem = s.mem := rfl
@[simp] theorem State.setReg_arrivals (s : State) (r : Reg) (v : Word) : (s.setReg r v).arrivals = s.arrivals := rfl
@[simp] theorem State.setReg_ioLog (s : State) (r : Reg) (v : Word) : (s.setReg r v).ioLog = s.ioLog := rfl
@[simp] theorem State.setReg_storedTo (s : State) (r : Reg) (v : Word) : (s.setReg r v).storedTo = s.storedTo := rfl
@[simp] theorem State.setReg_draws (s : State) (r : Reg) (v : Word) : (s.setReg r v).draws = s.draws := rfl

/-! ### `retire` -/

@[simp] theorem State.retire_cfg (s : State) (f : Flags) : (s.retire f).cfg = s.cfg := rfl
@[simp] theorem State.retire_gpr (s : State) (f : Flags) : (s.retire f).gpr = s.gpr := rfl
@[simp] theorem State.retire_pcr (s : State) (f : Flags) : (s.retire f).pcr = s.pcr + 4#32 := rfl
@[simp] theorem State.retire_flagr (s : State) (f : Flags) : (s.retire f).flagr = f := rfl
@[simp] theorem State.retire_spr (s : State) (f : Flags) : (s.retire f).spr = s.spr := rfl
@[simp] theorem State.retire_psr (s : State) (f : Flags) : (s.retire f).psr = s.psr := rfl
@[simp] theorem State.retire_cpuidr (s : State) (f : Flags) : (s.retire f).cpuidr = s.cpuidr := rfl
@[simp] theorem State.retire_coreidr (s : State) (f : Flags) : (s.retire f).coreidr = s.coreidr := rfl
@[simp] theorem State.retire_tidr (s : State) (f : Flags) : (s.retire f).tidr = s.tidr := rfl
@[simp] theorem State.retire_iosar (s : State) (f : Flags) : (s.retire f).iosar = s.iosar := rfl
@[simp] theorem State.retire_pdtr (s : State) (f : Flags) : (s.retire f).pdtr = s.pdtr := rfl
@[simp] theorem State.retire_kpdtr (s : State) (f : Flags) : (s.retire f).kpdtr = s.kpdtr := rfl
@[simp] theorem State.retire_tisr (s : State) (f : Flags) : (s.retire f).tisr = s.tisr := rfl
@[simp] theorem State.retire_idtr (s : State) (f : Flags) : (s.retire f).idtr = s.idtr := rfl
@[simp] theorem State.retire_fi0r (s : State) (f : Flags) : (s.retire f).fi0r = s.fi0r := rfl
@[simp] theorem State.retire_fi1r (s : State) (f : Flags) : (s.retire f).fi1r = s.fi1r := rfl
@[simp] theorem State.retire_frcr (s : State) (f : Flags) : (s.retire f).frcr = s.frcr := rfl
@[simp] theorem State.retire_frclr (s : State) (f : Flags) : (s.retire f).frclr = s.frclr := rfl
@[simp] theorem State.retire_frchr (s : State) (f : Flags) : (s.retire f).frchr = s.frchr := rfl
@[simp] theorem State.retire_pflagr (s : State) (f : Flags) : (s.retire f).pflagr = s.pflagr := rfl
@[simp] theorem State.retire_ppcr (s : State) (f : Flags) : (s.retire f).ppcr = s.ppcr := rfl
@[simp] theorem State.retire_ppsr (s : State) (f : Flags) : (s.retire f).ppsr = s.ppsr := rfl
@[simp] theorem State.retire_ppdtr (s : State) (f : Flags) : (s.retire f).ppdtr = s.ppdtr := rfl
@[simp] theorem State.retire_ptidr (s : State) (f : Flags) : (s.retire f).ptidr = s.ptidr := rfl
@[simp] theorem State.retire_idtc (s : State) (f : Flags) : (s.retire f).idtc = s.idtc := rfl
@[simp] theorem State.retire_tlb (s : State) (f : Flags) : (s.retire f).tlb = s.tlb := rfl
@[simp] theorem State.retire_dps (s : State) (f : Flags) : (s.retire f).dps = s.dps := rfl
@[simp] theorem State.retire_gci (s : State) (f : Flags) : (s.retire f).gci = s.gci := rfl
@[simp] theorem State.retire_pending (s : State) (f : Flags) : (s.retire f).pending = s.pending := rfl
@[simp] theorem State.retire_mem (s : State) (f : Flags) : (s.retire f).mem = s.mem := rfl
@[simp] theorem State.retire_arrivals (s : State) (f : Flags) : (s.retire f).arrivals = s.arrivals := rfl
@[simp] theorem State.retire_ioLog (s : State) (f : Flags) : (s.retire f).ioLog = s.ioLog := rfl
@[simp] theorem State.retire_storedTo (s : State) (f : Flags) : (s.retire f).storedTo = s.storedTo := rfl
@[simp] theorem State.retire_draws (s : State) (f : Flags) : (s.retire f).draws = s.draws := rfl

/-! ### `jump` -/

@[simp] theorem State.jump_cfg (s : State) (t : Word) : (s.jump t).cfg = s.cfg := rfl
@[simp] theorem State.jump_gpr (s : State) (t : Word) : (s.jump t).gpr = s.gpr := rfl
@[simp] theorem State.jump_pcr (s : State) (t : Word) : (s.jump t).pcr = t := rfl
@[simp] theorem State.jump_flagr (s : State) (t : Word) : (s.jump t).flagr = 0#5 := rfl
@[simp] theorem State.jump_spr (s : State) (t : Word) : (s.jump t).spr = s.spr := rfl
@[simp] theorem State.jump_psr (s : State) (t : Word) : (s.jump t).psr = s.psr := rfl
@[simp] theorem State.jump_cpuidr (s : State) (t : Word) : (s.jump t).cpuidr = s.cpuidr := rfl
@[simp] theorem State.jump_coreidr (s : State) (t : Word) : (s.jump t).coreidr = s.coreidr := rfl
@[simp] theorem State.jump_tidr (s : State) (t : Word) : (s.jump t).tidr = s.tidr := rfl
@[simp] theorem State.jump_iosar (s : State) (t : Word) : (s.jump t).iosar = s.iosar := rfl
@[simp] theorem State.jump_pdtr (s : State) (t : Word) : (s.jump t).pdtr = s.pdtr := rfl
@[simp] theorem State.jump_kpdtr (s : State) (t : Word) : (s.jump t).kpdtr = s.kpdtr := rfl
@[simp] theorem State.jump_tisr (s : State) (t : Word) : (s.jump t).tisr = s.tisr := rfl
@[simp] theorem State.jump_idtr (s : State) (t : Word) : (s.jump t).idtr = s.idtr := rfl
@[simp] theorem State.jump_fi0r (s : State) (t : Word) : (s.jump t).fi0r = s.fi0r := rfl
@[simp] theorem State.jump_fi1r (s : State) (t : Word) : (s.jump t).fi1r = s.fi1r := rfl
@[simp] theorem State.jump_frcr (s : State) (t : Word) : (s.jump t).frcr = s.frcr := rfl
@[simp] theorem State.jump_frclr (s : State) (t : Word) : (s.jump t).frclr = s.frclr := rfl
@[simp] theorem State.jump_frchr (s : State) (t : Word) : (s.jump t).frchr = s.frchr := rfl
@[simp] theorem State.jump_pflagr (s : State) (t : Word) : (s.jump t).pflagr = s.pflagr := rfl
@[simp] theorem State.jump_ppcr (s : State) (t : Word) : (s.jump t).ppcr = s.ppcr := rfl
@[simp] theorem State.jump_ppsr (s : State) (t : Word) : (s.jump t).ppsr = s.ppsr := rfl
@[simp] theorem State.jump_ppdtr (s : State) (t : Word) : (s.jump t).ppdtr = s.ppdtr := rfl
@[simp] theorem State.jump_ptidr (s : State) (t : Word) : (s.jump t).ptidr = s.ptidr := rfl
@[simp] theorem State.jump_idtc (s : State) (t : Word) : (s.jump t).idtc = s.idtc := rfl
@[simp] theorem State.jump_tlb (s : State) (t : Word) : (s.jump t).tlb = s.tlb := rfl
@[simp] theorem State.jump_dps (s : State) (t : Word) : (s.jump t).dps = s.dps := rfl
@[simp] theorem State.jump_gci (s : State) (t : Word) : (s.jump t).gci = s.gci := rfl
@[simp] theorem State.jump_pending (s : State) (t : Word) : (s.jump t).pending = s.pending := rfl
@[simp] theorem State.jump_mem (s : State) (t : Word) : (s.jump t).mem = s.mem := rfl
@[simp] theorem State.jump_arrivals (s : State) (t : Word) : (s.jump t).arrivals = s.arrivals := rfl
@[simp] theorem State.jump_ioLog (s : State) (t : Word) : (s.jump t).ioLog = s.ioLog := rfl
@[simp] theorem State.jump_storedTo (s : State) (t : Word) : (s.jump t).storedTo = s.storedTo := rfl
@[simp] theorem State.jump_draws (s : State) (t : Word) : (s.jump t).draws = s.draws := rfl

/-! ### `drawn` -/

@[simp] theorem State.drawn_cfg (s : State) : (s.drawn).cfg = s.cfg := rfl
@[simp] theorem State.drawn_gpr (s : State) : (s.drawn).gpr = s.gpr := rfl
@[simp] theorem State.drawn_pcr (s : State) : (s.drawn).pcr = s.pcr := rfl
@[simp] theorem State.drawn_flagr (s : State) : (s.drawn).flagr = s.flagr := rfl
@[simp] theorem State.drawn_spr (s : State) : (s.drawn).spr = s.spr := rfl
@[simp] theorem State.drawn_psr (s : State) : (s.drawn).psr = s.psr := rfl
@[simp] theorem State.drawn_cpuidr (s : State) : (s.drawn).cpuidr = s.cpuidr := rfl
@[simp] theorem State.drawn_coreidr (s : State) : (s.drawn).coreidr = s.coreidr := rfl
@[simp] theorem State.drawn_tidr (s : State) : (s.drawn).tidr = s.tidr := rfl
@[simp] theorem State.drawn_iosar (s : State) : (s.drawn).iosar = s.iosar := rfl
@[simp] theorem State.drawn_pdtr (s : State) : (s.drawn).pdtr = s.pdtr := rfl
@[simp] theorem State.drawn_kpdtr (s : State) : (s.drawn).kpdtr = s.kpdtr := rfl
@[simp] theorem State.drawn_tisr (s : State) : (s.drawn).tisr = s.tisr := rfl
@[simp] theorem State.drawn_idtr (s : State) : (s.drawn).idtr = s.idtr := rfl
@[simp] theorem State.drawn_fi0r (s : State) : (s.drawn).fi0r = s.fi0r := rfl
@[simp] theorem State.drawn_fi1r (s : State) : (s.drawn).fi1r = s.fi1r := rfl
@[simp] theorem State.drawn_frcr (s : State) : (s.drawn).frcr = s.frcr := rfl
@[simp] theorem State.drawn_frclr (s : State) : (s.drawn).frclr = s.frclr := rfl
@[simp] theorem State.drawn_frchr (s : State) : (s.drawn).frchr = s.frchr := rfl
@[simp] theorem State.drawn_pflagr (s : State) : (s.drawn).pflagr = s.pflagr := rfl
@[simp] theorem State.drawn_ppcr (s : State) : (s.drawn).ppcr = s.ppcr := rfl
@[simp] theorem State.drawn_ppsr (s : State) : (s.drawn).ppsr = s.ppsr := rfl
@[simp] theorem State.drawn_ppdtr (s : State) : (s.drawn).ppdtr = s.ppdtr := rfl
@[simp] theorem State.drawn_ptidr (s : State) : (s.drawn).ptidr = s.ptidr := rfl
@[simp] theorem State.drawn_idtc (s : State) : (s.drawn).idtc = s.idtc := rfl
@[simp] theorem State.drawn_tlb (s : State) : (s.drawn).tlb = s.tlb := rfl
@[simp] theorem State.drawn_dps (s : State) : (s.drawn).dps = s.dps := rfl
@[simp] theorem State.drawn_gci (s : State) : (s.drawn).gci = s.gci := rfl
@[simp] theorem State.drawn_pending (s : State) : (s.drawn).pending = s.pending := rfl
@[simp] theorem State.drawn_mem (s : State) : (s.drawn).mem = s.mem := rfl
@[simp] theorem State.drawn_arrivals (s : State) : (s.drawn).arrivals = s.arrivals := rfl
@[simp] theorem State.drawn_ioLog (s : State) : (s.drawn).ioLog = s.ioLog := rfl
@[simp] theorem State.drawn_storedTo (s : State) : (s.drawn).storedTo = s.storedTo := rfl
@[simp] theorem State.drawn_draws (s : State) : (s.drawn).draws = s.draws + 1 := rfl

/-! ### `tick` -/

@[simp] theorem State.tick_cfg (s : State) : (s.tick).cfg = s.cfg := rfl
@[simp] theorem State.tick_gpr (s : State) : (s.tick).gpr = s.gpr := rfl
@[simp] theorem State.tick_pcr (s : State) : (s.tick).pcr = s.pcr := rfl
@[simp] theorem State.tick_flagr (s : State) : (s.tick).flagr = s.flagr := rfl
@[simp] theorem State.tick_spr (s : State) : (s.tick).spr = s.spr := rfl
@[simp] theorem State.tick_psr (s : State) : (s.tick).psr = s.psr := rfl
@[simp] theorem State.tick_cpuidr (s : State) : (s.tick).cpuidr = s.cpuidr := rfl
@[simp] theorem State.tick_coreidr (s : State) : (s.tick).coreidr = s.coreidr := rfl
@[simp] theorem State.tick_tidr (s : State) : (s.tick).tidr = s.tidr := rfl
@[simp] theorem State.tick_iosar (s : State) : (s.tick).iosar = s.iosar := rfl
@[simp] theorem State.tick_pdtr (s : State) : (s.tick).pdtr = s.pdtr := rfl
@[simp] theorem State.tick_kpdtr (s : State) : (s.tick).kpdtr = s.kpdtr := rfl
@[simp] theorem State.tick_tisr (s : State) : (s.tick).tisr = s.tisr := rfl
@[simp] theorem State.tick_idtr (s : State) : (s.tick).idtr = s.idtr := rfl
@[simp] theorem State.tick_fi0r (s : State) : (s.tick).fi0r = s.fi0r := rfl
@[simp] theorem State.tick_fi1r (s : State) : (s.tick).fi1r = s.fi1r := rfl
@[simp] theorem State.tick_frcr (s : State) : (s.tick).frcr = s.frcr + Config.frcAdvance s.draws := rfl
@[simp] theorem State.tick_frclr (s : State) : (s.tick).frclr = s.frclr := rfl
@[simp] theorem State.tick_frchr (s : State) : (s.tick).frchr = s.frchr := rfl
@[simp] theorem State.tick_pflagr (s : State) : (s.tick).pflagr = s.pflagr := rfl
@[simp] theorem State.tick_ppcr (s : State) : (s.tick).ppcr = s.ppcr := rfl
@[simp] theorem State.tick_ppsr (s : State) : (s.tick).ppsr = s.ppsr := rfl
@[simp] theorem State.tick_ppdtr (s : State) : (s.tick).ppdtr = s.ppdtr := rfl
@[simp] theorem State.tick_ptidr (s : State) : (s.tick).ptidr = s.ptidr := rfl
@[simp] theorem State.tick_idtc (s : State) : (s.tick).idtc = s.idtc := rfl
@[simp] theorem State.tick_tlb (s : State) : (s.tick).tlb = s.tlb := rfl
@[simp] theorem State.tick_dps (s : State) : (s.tick).dps = s.dps := rfl
@[simp] theorem State.tick_gci (s : State) : (s.tick).gci = s.gci := rfl
@[simp] theorem State.tick_pending (s : State) : (s.tick).pending = s.pending := rfl
@[simp] theorem State.tick_mem (s : State) : (s.tick).mem = s.mem := rfl
@[simp] theorem State.tick_arrivals (s : State) : (s.tick).arrivals = s.arrivals := rfl
@[simp] theorem State.tick_ioLog (s : State) : (s.tick).ioLog = s.ioLog := rfl
@[simp] theorem State.tick_storedTo (s : State) : (s.tick).storedTo = s.storedTo := rfl
@[simp] theorem State.tick_draws (s : State) : (s.tick).draws = s.draws + 1 := rfl

/-! ### `returned` -/

@[simp] theorem State.returned_cfg (s : State) : (s.returned).cfg = s.cfg := rfl
@[simp] theorem State.returned_gpr (s : State) : (s.returned).gpr = s.gpr := rfl
@[simp] theorem State.returned_pcr (s : State) : (s.returned).pcr = s.ppcr := rfl
@[simp] theorem State.returned_flagr (s : State) : (s.returned).flagr = s.pflagr := rfl
@[simp] theorem State.returned_spr (s : State) : (s.returned).spr = s.spr := rfl
@[simp] theorem State.returned_psr (s : State) : (s.returned).psr = s.ppsr := rfl
@[simp] theorem State.returned_cpuidr (s : State) : (s.returned).cpuidr = s.cpuidr := rfl
@[simp] theorem State.returned_coreidr (s : State) : (s.returned).coreidr = s.coreidr := rfl
@[simp] theorem State.returned_tidr (s : State) : (s.returned).tidr = if s.isS then s.ptidr else s.tidr := rfl
@[simp] theorem State.returned_iosar (s : State) : (s.returned).iosar = s.iosar := rfl
@[simp] theorem State.returned_pdtr (s : State) : (s.returned).pdtr = if s.isS then s.ppdtr else s.pdtr := rfl
@[simp] theorem State.returned_kpdtr (s : State) : (s.returned).kpdtr = s.kpdtr := rfl
@[simp] theorem State.returned_tisr (s : State) : (s.returned).tisr = s.tisr := rfl
@[simp] theorem State.returned_idtr (s : State) : (s.returned).idtr = s.idtr := rfl
@[simp] theorem State.returned_fi0r (s : State) : (s.returned).fi0r = s.fi0r := rfl
@[simp] theorem State.returned_fi1r (s : State) : (s.returned).fi1r = s.fi1r := rfl
@[simp] theorem State.returned_frcr (s : State) : (s.returned).frcr = s.frcr := rfl
@[simp] theorem State.returned_frclr (s : State) : (s.returned).frclr = s.frclr := rfl
@[simp] theorem State.returned_frchr (s : State) : (s.returned).frchr = s.frchr := rfl
@[simp] theorem State.returned_pflagr (s : State) : (s.returned).pflagr = s.pflagr := rfl
@[simp] theorem State.returned_ppcr (s : State) : (s.returned).ppcr = s.ppcr := rfl
@[simp] theorem State.returned_ppsr (s : State) : (s.returned).ppsr = s.ppsr := rfl
@[simp] theorem State.returned_ppdtr (s : State) : (s.returned).ppdtr = s.ppdtr := rfl
@[simp] theorem State.returned_ptidr (s : State) : (s.returned).ptidr = s.ptidr := rfl
@[simp] theorem State.returned_idtc (s : State) : (s.returned).idtc = s.idtc := rfl
@[simp] theorem State.returned_tlb (s : State) : (s.returned).tlb = s.tlb := rfl
@[simp] theorem State.returned_dps (s : State) : (s.returned).dps = s.dps := rfl
@[simp] theorem State.returned_gci (s : State) : (s.returned).gci = s.gci := rfl
@[simp] theorem State.returned_pending (s : State) : (s.returned).pending = s.pending := rfl
@[simp] theorem State.returned_mem (s : State) : (s.returned).mem = s.mem := rfl
@[simp] theorem State.returned_arrivals (s : State) : (s.returned).arrivals = s.arrivals := rfl
@[simp] theorem State.returned_ioLog (s : State) : (s.returned).ioLog = s.ioLog := rfl
@[simp] theorem State.returned_storedTo (s : State) : (s.returned).storedTo = s.storedTo := rfl
@[simp] theorem State.returned_draws (s : State) : (s.returned).draws = s.draws := rfl

/-! ### `entered` -/

@[simp] theorem State.entered_cfg (s : State) (c : Cause) (ret h : Word) : (s.entered c ret h).cfg = s.cfg := rfl
@[simp] theorem State.entered_gpr (s : State) (c : Cause) (ret h : Word) : (s.entered c ret h).gpr = s.gpr := rfl
@[simp] theorem State.entered_pcr (s : State) (c : Cause) (ret h : Word) : (s.entered c ret h).pcr = h := rfl
@[simp] theorem State.entered_flagr (s : State) (c : Cause) (ret h : Word) : (s.entered c ret h).flagr = 0#5 := rfl
@[simp] theorem State.entered_spr (s : State) (c : Cause) (ret h : Word) : (s.entered c ret h).spr = s.spr := rfl
@[simp] theorem State.entered_psr (s : State) (c : Cause) (ret h : Word) : (s.entered c ret h).psr = if s.isS then psrKernel (psrWithIm s.psr false) else psrWithIm s.psr false := rfl
@[simp] theorem State.entered_cpuidr (s : State) (c : Cause) (ret h : Word) : (s.entered c ret h).cpuidr = s.cpuidr := rfl
@[simp] theorem State.entered_coreidr (s : State) (c : Cause) (ret h : Word) : (s.entered c ret h).coreidr = s.coreidr := rfl
@[simp] theorem State.entered_tidr (s : State) (c : Cause) (ret h : Word) : (s.entered c ret h).tidr = s.tidr := rfl
@[simp] theorem State.entered_iosar (s : State) (c : Cause) (ret h : Word) : (s.entered c ret h).iosar = s.iosar := rfl
@[simp] theorem State.entered_pdtr (s : State) (c : Cause) (ret h : Word) : (s.entered c ret h).pdtr = s.pdtr := rfl
@[simp] theorem State.entered_kpdtr (s : State) (c : Cause) (ret h : Word) : (s.entered c ret h).kpdtr = s.kpdtr := rfl
@[simp] theorem State.entered_tisr (s : State) (c : Cause) (ret h : Word) : (s.entered c ret h).tisr = s.tisr := rfl
@[simp] theorem State.entered_idtr (s : State) (c : Cause) (ret h : Word) : (s.entered c ret h).idtr = s.idtr := rfl
@[simp] theorem State.entered_fi0r (s : State) (c : Cause) (ret h : Word) : (s.entered c ret h).fi0r = c.fi0.getD s.fi0r := rfl
@[simp] theorem State.entered_fi1r (s : State) (c : Cause) (ret h : Word) : (s.entered c ret h).fi1r = if s.isS then c.fi1.getD s.fi1r else s.fi1r := rfl
@[simp] theorem State.entered_frcr (s : State) (c : Cause) (ret h : Word) : (s.entered c ret h).frcr = s.frcr := rfl
@[simp] theorem State.entered_frclr (s : State) (c : Cause) (ret h : Word) : (s.entered c ret h).frclr = s.frclr := rfl
@[simp] theorem State.entered_frchr (s : State) (c : Cause) (ret h : Word) : (s.entered c ret h).frchr = s.frchr := rfl
@[simp] theorem State.entered_pflagr (s : State) (c : Cause) (ret h : Word) : (s.entered c ret h).pflagr = s.flagr := rfl
@[simp] theorem State.entered_ppcr (s : State) (c : Cause) (ret h : Word) : (s.entered c ret h).ppcr = ret := rfl
@[simp] theorem State.entered_ppsr (s : State) (c : Cause) (ret h : Word) : (s.entered c ret h).ppsr = s.psr := rfl
@[simp] theorem State.entered_ppdtr (s : State) (c : Cause) (ret h : Word) : (s.entered c ret h).ppdtr = if s.isS then s.pdtr else s.ppdtr := rfl
@[simp] theorem State.entered_ptidr (s : State) (c : Cause) (ret h : Word) : (s.entered c ret h).ptidr = if s.isS then s.tidr else s.ptidr := rfl
@[simp] theorem State.entered_idtc (s : State) (c : Cause) (ret h : Word) : (s.entered c ret h).idtc = s.idtc := rfl
@[simp] theorem State.entered_tlb (s : State) (c : Cause) (ret h : Word) : (s.entered c ret h).tlb = s.tlb := rfl
@[simp] theorem State.entered_dps (s : State) (c : Cause) (ret h : Word) : (s.entered c ret h).dps = s.dps := rfl
@[simp] theorem State.entered_gci (s : State) (c : Cause) (ret h : Word) : (s.entered c ret h).gci = s.gci := rfl
@[simp] theorem State.entered_pending (s : State) (c : Cause) (ret h : Word) : (s.entered c ret h).pending = if 4 ≤ c.number ∧ c.number ≤ 37 then s.pending.erase c.number else s.pending := rfl
@[simp] theorem State.entered_mem (s : State) (c : Cause) (ret h : Word) : (s.entered c ret h).mem = s.mem := rfl
@[simp] theorem State.entered_arrivals (s : State) (c : Cause) (ret h : Word) : (s.entered c ret h).arrivals = s.arrivals := rfl
@[simp] theorem State.entered_ioLog (s : State) (c : Cause) (ret h : Word) : (s.entered c ret h).ioLog = s.ioLog := rfl
@[simp] theorem State.entered_storedTo (s : State) (c : Cause) (ret h : Word) : (s.entered c ret h).storedTo = s.storedTo := rfl
@[simp] theorem State.entered_draws (s : State) (c : Cause) (ret h : Word) : (s.entered c ret h).draws = s.draws := rfl

/-! ### `writePte` -/

@[simp] theorem State.writePte_cfg (s : State) (a e e' : Word) : (s.writePte a e e').cfg = s.cfg := rfl
@[simp] theorem State.writePte_gpr (s : State) (a e e' : Word) : (s.writePte a e e').gpr = s.gpr := rfl
@[simp] theorem State.writePte_pcr (s : State) (a e e' : Word) : (s.writePte a e e').pcr = s.pcr := rfl
@[simp] theorem State.writePte_flagr (s : State) (a e e' : Word) : (s.writePte a e e').flagr = s.flagr := rfl
@[simp] theorem State.writePte_spr (s : State) (a e e' : Word) : (s.writePte a e e').spr = s.spr := rfl
@[simp] theorem State.writePte_psr (s : State) (a e e' : Word) : (s.writePte a e e').psr = s.psr := rfl
@[simp] theorem State.writePte_cpuidr (s : State) (a e e' : Word) : (s.writePte a e e').cpuidr = s.cpuidr := rfl
@[simp] theorem State.writePte_coreidr (s : State) (a e e' : Word) : (s.writePte a e e').coreidr = s.coreidr := rfl
@[simp] theorem State.writePte_tidr (s : State) (a e e' : Word) : (s.writePte a e e').tidr = s.tidr := rfl
@[simp] theorem State.writePte_iosar (s : State) (a e e' : Word) : (s.writePte a e e').iosar = s.iosar := rfl
@[simp] theorem State.writePte_pdtr (s : State) (a e e' : Word) : (s.writePte a e e').pdtr = s.pdtr := rfl
@[simp] theorem State.writePte_kpdtr (s : State) (a e e' : Word) : (s.writePte a e e').kpdtr = s.kpdtr := rfl
@[simp] theorem State.writePte_tisr (s : State) (a e e' : Word) : (s.writePte a e e').tisr = s.tisr := rfl
@[simp] theorem State.writePte_idtr (s : State) (a e e' : Word) : (s.writePte a e e').idtr = s.idtr := rfl
@[simp] theorem State.writePte_fi0r (s : State) (a e e' : Word) : (s.writePte a e e').fi0r = s.fi0r := rfl
@[simp] theorem State.writePte_fi1r (s : State) (a e e' : Word) : (s.writePte a e e').fi1r = s.fi1r := rfl
@[simp] theorem State.writePte_frcr (s : State) (a e e' : Word) : (s.writePte a e e').frcr = s.frcr := rfl
@[simp] theorem State.writePte_frclr (s : State) (a e e' : Word) : (s.writePte a e e').frclr = s.frclr := rfl
@[simp] theorem State.writePte_frchr (s : State) (a e e' : Word) : (s.writePte a e e').frchr = s.frchr := rfl
@[simp] theorem State.writePte_pflagr (s : State) (a e e' : Word) : (s.writePte a e e').pflagr = s.pflagr := rfl
@[simp] theorem State.writePte_ppcr (s : State) (a e e' : Word) : (s.writePte a e e').ppcr = s.ppcr := rfl
@[simp] theorem State.writePte_ppsr (s : State) (a e e' : Word) : (s.writePte a e e').ppsr = s.ppsr := rfl
@[simp] theorem State.writePte_ppdtr (s : State) (a e e' : Word) : (s.writePte a e e').ppdtr = s.ppdtr := rfl
@[simp] theorem State.writePte_ptidr (s : State) (a e e' : Word) : (s.writePte a e e').ptidr = s.ptidr := rfl
@[simp] theorem State.writePte_idtc (s : State) (a e e' : Word) : (s.writePte a e e').idtc = s.idtc := rfl
@[simp] theorem State.writePte_tlb (s : State) (a e e' : Word) : (s.writePte a e e').tlb = tlbRecord s.tlb (tidrAsid s.tidr) a e e' := rfl
@[simp] theorem State.writePte_dps (s : State) (a e e' : Word) : (s.writePte a e e').dps = s.dps := rfl
@[simp] theorem State.writePte_gci (s : State) (a e e' : Word) : (s.writePte a e e').gci = s.gci := rfl
@[simp] theorem State.writePte_pending (s : State) (a e e' : Word) : (s.writePte a e e').pending = s.pending := rfl
@[simp] theorem State.writePte_mem (s : State) (a e e' : Word) : (s.writePte a e e').mem = if e' = e then s.mem else s.mem.writeBE a.toNat 4 e' := rfl
@[simp] theorem State.writePte_arrivals (s : State) (a e e' : Word) : (s.writePte a e e').arrivals = s.arrivals := rfl
@[simp] theorem State.writePte_ioLog (s : State) (a e e' : Word) : (s.writePte a e e').ioLog = s.ioLog := rfl
@[simp] theorem State.writePte_storedTo (s : State) (a e e' : Word) : (s.writePte a e e').storedTo = s.storedTo := rfl
@[simp] theorem State.writePte_draws (s : State) (a e e' : Word) : (s.writePte a e e').draws = s.draws := rfl

/-! ### `stored` -/

@[simp] theorem State.stored_cfg (s : State) (pa : Word) (w : Width) (v : Word) : (s.stored pa w v).cfg = s.cfg := rfl
@[simp] theorem State.stored_gpr (s : State) (pa : Word) (w : Width) (v : Word) : (s.stored pa w v).gpr = s.gpr := rfl
@[simp] theorem State.stored_pcr (s : State) (pa : Word) (w : Width) (v : Word) : (s.stored pa w v).pcr = s.pcr := rfl
@[simp] theorem State.stored_flagr (s : State) (pa : Word) (w : Width) (v : Word) : (s.stored pa w v).flagr = s.flagr := rfl
@[simp] theorem State.stored_spr (s : State) (pa : Word) (w : Width) (v : Word) : (s.stored pa w v).spr = s.spr := rfl
@[simp] theorem State.stored_psr (s : State) (pa : Word) (w : Width) (v : Word) : (s.stored pa w v).psr = s.psr := rfl
@[simp] theorem State.stored_cpuidr (s : State) (pa : Word) (w : Width) (v : Word) : (s.stored pa w v).cpuidr = s.cpuidr := rfl
@[simp] theorem State.stored_coreidr (s : State) (pa : Word) (w : Width) (v : Word) : (s.stored pa w v).coreidr = s.coreidr := rfl
@[simp] theorem State.stored_tidr (s : State) (pa : Word) (w : Width) (v : Word) : (s.stored pa w v).tidr = s.tidr := rfl
@[simp] theorem State.stored_iosar (s : State) (pa : Word) (w : Width) (v : Word) : (s.stored pa w v).iosar = s.iosar := rfl
@[simp] theorem State.stored_pdtr (s : State) (pa : Word) (w : Width) (v : Word) : (s.stored pa w v).pdtr = s.pdtr := rfl
@[simp] theorem State.stored_kpdtr (s : State) (pa : Word) (w : Width) (v : Word) : (s.stored pa w v).kpdtr = s.kpdtr := rfl
@[simp] theorem State.stored_tisr (s : State) (pa : Word) (w : Width) (v : Word) : (s.stored pa w v).tisr = s.tisr := rfl
@[simp] theorem State.stored_idtr (s : State) (pa : Word) (w : Width) (v : Word) : (s.stored pa w v).idtr = s.idtr := rfl
@[simp] theorem State.stored_fi0r (s : State) (pa : Word) (w : Width) (v : Word) : (s.stored pa w v).fi0r = s.fi0r := rfl
@[simp] theorem State.stored_fi1r (s : State) (pa : Word) (w : Width) (v : Word) : (s.stored pa w v).fi1r = s.fi1r := rfl
@[simp] theorem State.stored_frcr (s : State) (pa : Word) (w : Width) (v : Word) : (s.stored pa w v).frcr = s.frcr := rfl
@[simp] theorem State.stored_frclr (s : State) (pa : Word) (w : Width) (v : Word) : (s.stored pa w v).frclr = s.frclr := rfl
@[simp] theorem State.stored_frchr (s : State) (pa : Word) (w : Width) (v : Word) : (s.stored pa w v).frchr = s.frchr := rfl
@[simp] theorem State.stored_pflagr (s : State) (pa : Word) (w : Width) (v : Word) : (s.stored pa w v).pflagr = s.pflagr := rfl
@[simp] theorem State.stored_ppcr (s : State) (pa : Word) (w : Width) (v : Word) : (s.stored pa w v).ppcr = s.ppcr := rfl
@[simp] theorem State.stored_ppsr (s : State) (pa : Word) (w : Width) (v : Word) : (s.stored pa w v).ppsr = s.ppsr := rfl
@[simp] theorem State.stored_ppdtr (s : State) (pa : Word) (w : Width) (v : Word) : (s.stored pa w v).ppdtr = s.ppdtr := rfl
@[simp] theorem State.stored_ptidr (s : State) (pa : Word) (w : Width) (v : Word) : (s.stored pa w v).ptidr = s.ptidr := rfl
@[simp] theorem State.stored_idtc (s : State) (pa : Word) (w : Width) (v : Word) : (s.stored pa w v).idtc = s.idtc := rfl
@[simp] theorem State.stored_tlb (s : State) (pa : Word) (w : Width) (v : Word) : (s.stored pa w v).tlb = s.tlb := rfl
@[simp] theorem State.stored_dps (s : State) (pa : Word) (w : Width) (v : Word) : (s.stored pa w v).dps = s.dps := rfl
@[simp] theorem State.stored_gci (s : State) (pa : Word) (w : Width) (v : Word) : (s.stored pa w v).gci = s.gci := rfl
@[simp] theorem State.stored_pending (s : State) (pa : Word) (w : Width) (v : Word) : (s.stored pa w v).pending = s.pending := rfl
@[simp] theorem State.stored_mem (s : State) (pa : Word) (w : Width) (v : Word) : (s.stored pa w v).mem = s.mem.writeBE pa.toNat w.bytes v := rfl
@[simp] theorem State.stored_arrivals (s : State) (pa : Word) (w : Width) (v : Word) : (s.stored pa w v).arrivals = s.arrivals := rfl
@[simp] theorem State.stored_ioLog (s : State) (pa : Word) (w : Width) (v : Word) : (s.stored pa w v).ioLog = s.ioLog := rfl
@[simp] theorem State.stored_storedTo (s : State) (pa : Word) (w : Width) (v : Word) : (s.stored pa w v).storedTo = (List.range w.bytes).foldl (fun l k => insertNat (pa.toNat + k) l) s.storedTo := rfl
@[simp] theorem State.stored_draws (s : State) (pa : Word) (w : Width) (v : Word) : (s.stored pa w v).draws = s.draws := rfl

/-! ### `setUnit` -/

@[simp] theorem State.setUnit_cfg (s : State) (u : IoUnit) (x : UnitState) : (s.setUnit u x).cfg = s.cfg := by cases u <;> rfl
@[simp] theorem State.setUnit_gpr (s : State) (u : IoUnit) (x : UnitState) : (s.setUnit u x).gpr = s.gpr := by cases u <;> rfl
@[simp] theorem State.setUnit_pcr (s : State) (u : IoUnit) (x : UnitState) : (s.setUnit u x).pcr = s.pcr := by cases u <;> rfl
@[simp] theorem State.setUnit_flagr (s : State) (u : IoUnit) (x : UnitState) : (s.setUnit u x).flagr = s.flagr := by cases u <;> rfl
@[simp] theorem State.setUnit_spr (s : State) (u : IoUnit) (x : UnitState) : (s.setUnit u x).spr = s.spr := by cases u <;> rfl
@[simp] theorem State.setUnit_psr (s : State) (u : IoUnit) (x : UnitState) : (s.setUnit u x).psr = s.psr := by cases u <;> rfl
@[simp] theorem State.setUnit_cpuidr (s : State) (u : IoUnit) (x : UnitState) : (s.setUnit u x).cpuidr = s.cpuidr := by cases u <;> rfl
@[simp] theorem State.setUnit_coreidr (s : State) (u : IoUnit) (x : UnitState) : (s.setUnit u x).coreidr = s.coreidr := by cases u <;> rfl
@[simp] theorem State.setUnit_tidr (s : State) (u : IoUnit) (x : UnitState) : (s.setUnit u x).tidr = s.tidr := by cases u <;> rfl
@[simp] theorem State.setUnit_iosar (s : State) (u : IoUnit) (x : UnitState) : (s.setUnit u x).iosar = s.iosar := by cases u <;> rfl
@[simp] theorem State.setUnit_pdtr (s : State) (u : IoUnit) (x : UnitState) : (s.setUnit u x).pdtr = s.pdtr := by cases u <;> rfl
@[simp] theorem State.setUnit_kpdtr (s : State) (u : IoUnit) (x : UnitState) : (s.setUnit u x).kpdtr = s.kpdtr := by cases u <;> rfl
@[simp] theorem State.setUnit_tisr (s : State) (u : IoUnit) (x : UnitState) : (s.setUnit u x).tisr = s.tisr := by cases u <;> rfl
@[simp] theorem State.setUnit_idtr (s : State) (u : IoUnit) (x : UnitState) : (s.setUnit u x).idtr = s.idtr := by cases u <;> rfl
@[simp] theorem State.setUnit_fi0r (s : State) (u : IoUnit) (x : UnitState) : (s.setUnit u x).fi0r = s.fi0r := by cases u <;> rfl
@[simp] theorem State.setUnit_fi1r (s : State) (u : IoUnit) (x : UnitState) : (s.setUnit u x).fi1r = s.fi1r := by cases u <;> rfl
@[simp] theorem State.setUnit_frcr (s : State) (u : IoUnit) (x : UnitState) : (s.setUnit u x).frcr = s.frcr := by cases u <;> rfl
@[simp] theorem State.setUnit_frclr (s : State) (u : IoUnit) (x : UnitState) : (s.setUnit u x).frclr = s.frclr := by cases u <;> rfl
@[simp] theorem State.setUnit_frchr (s : State) (u : IoUnit) (x : UnitState) : (s.setUnit u x).frchr = s.frchr := by cases u <;> rfl
@[simp] theorem State.setUnit_pflagr (s : State) (u : IoUnit) (x : UnitState) : (s.setUnit u x).pflagr = s.pflagr := by cases u <;> rfl
@[simp] theorem State.setUnit_ppcr (s : State) (u : IoUnit) (x : UnitState) : (s.setUnit u x).ppcr = s.ppcr := by cases u <;> rfl
@[simp] theorem State.setUnit_ppsr (s : State) (u : IoUnit) (x : UnitState) : (s.setUnit u x).ppsr = s.ppsr := by cases u <;> rfl
@[simp] theorem State.setUnit_ppdtr (s : State) (u : IoUnit) (x : UnitState) : (s.setUnit u x).ppdtr = s.ppdtr := by cases u <;> rfl
@[simp] theorem State.setUnit_ptidr (s : State) (u : IoUnit) (x : UnitState) : (s.setUnit u x).ptidr = s.ptidr := by cases u <;> rfl
@[simp] theorem State.setUnit_idtc (s : State) (u : IoUnit) (x : UnitState) : (s.setUnit u x).idtc = s.idtc := by cases u <;> rfl
@[simp] theorem State.setUnit_tlb (s : State) (u : IoUnit) (x : UnitState) : (s.setUnit u x).tlb = s.tlb := by cases u <;> rfl
@[simp] theorem State.setUnit_pending (s : State) (u : IoUnit) (x : UnitState) : (s.setUnit u x).pending = s.pending := by cases u <;> rfl
@[simp] theorem State.setUnit_mem (s : State) (u : IoUnit) (x : UnitState) : (s.setUnit u x).mem = s.mem := by cases u <;> rfl
@[simp] theorem State.setUnit_arrivals (s : State) (u : IoUnit) (x : UnitState) : (s.setUnit u x).arrivals = s.arrivals := by cases u <;> rfl
@[simp] theorem State.setUnit_ioLog (s : State) (u : IoUnit) (x : UnitState) : (s.setUnit u x).ioLog = s.ioLog := by cases u <;> rfl
@[simp] theorem State.setUnit_storedTo (s : State) (u : IoUnit) (x : UnitState) : (s.setUnit u x).storedTo = s.storedTo := by cases u <;> rfl
@[simp] theorem State.setUnit_draws (s : State) (u : IoUnit) (x : UnitState) : (s.setUnit u x).draws = s.draws := by cases u <;> rfl

/-! ### `writeSys` -/

@[simp] theorem State.writeSys_cfg (s : State) (r : WriteReg) (v : Word) : (s.writeSys r v).cfg = s.cfg := by cases r <;> rfl
@[simp] theorem State.writeSys_gpr (s : State) (r : WriteReg) (v : Word) : (s.writeSys r v).gpr = s.gpr := by cases r <;> rfl
@[simp] theorem State.writeSys_pcr (s : State) (r : WriteReg) (v : Word) : (s.writeSys r v).pcr = s.pcr := by cases r <;> rfl
@[simp] theorem State.writeSys_flagr (s : State) (r : WriteReg) (v : Word) : (s.writeSys r v).flagr = s.flagr := by cases r <;> rfl
@[simp] theorem State.writeSys_spr (s : State) (r : WriteReg) (v : Word) : (s.writeSys r v).spr = s.spr := by cases r <;> rfl
@[simp] theorem State.writeSys_cpuidr (s : State) (r : WriteReg) (v : Word) : (s.writeSys r v).cpuidr = s.cpuidr := by cases r <;> rfl
@[simp] theorem State.writeSys_coreidr (s : State) (r : WriteReg) (v : Word) : (s.writeSys r v).coreidr = s.coreidr := by cases r <;> rfl
@[simp] theorem State.writeSys_iosar (s : State) (r : WriteReg) (v : Word) : (s.writeSys r v).iosar = s.iosar := by cases r <;> rfl
@[simp] theorem State.writeSys_idtr (s : State) (r : WriteReg) (v : Word) : (s.writeSys r v).idtr = s.idtr := by cases r <;> rfl
@[simp] theorem State.writeSys_fi0r (s : State) (r : WriteReg) (v : Word) : (s.writeSys r v).fi0r = s.fi0r := by cases r <;> rfl
@[simp] theorem State.writeSys_fi1r (s : State) (r : WriteReg) (v : Word) : (s.writeSys r v).fi1r = s.fi1r := by cases r <;> rfl
@[simp] theorem State.writeSys_frcr (s : State) (r : WriteReg) (v : Word) : (s.writeSys r v).frcr = s.frcr := by cases r <;> rfl
@[simp] theorem State.writeSys_idtc (s : State) (r : WriteReg) (v : Word) : (s.writeSys r v).idtc = s.idtc := by cases r <;> rfl
@[simp] theorem State.writeSys_tlb (s : State) (r : WriteReg) (v : Word) : (s.writeSys r v).tlb = s.tlb := by cases r <;> rfl
@[simp] theorem State.writeSys_dps (s : State) (r : WriteReg) (v : Word) : (s.writeSys r v).dps = s.dps := by cases r <;> rfl
@[simp] theorem State.writeSys_gci (s : State) (r : WriteReg) (v : Word) : (s.writeSys r v).gci = s.gci := by cases r <;> rfl
@[simp] theorem State.writeSys_pending (s : State) (r : WriteReg) (v : Word) : (s.writeSys r v).pending = s.pending := by cases r <;> rfl
@[simp] theorem State.writeSys_mem (s : State) (r : WriteReg) (v : Word) : (s.writeSys r v).mem = s.mem := by cases r <;> rfl
@[simp] theorem State.writeSys_arrivals (s : State) (r : WriteReg) (v : Word) : (s.writeSys r v).arrivals = s.arrivals := by cases r <;> rfl
@[simp] theorem State.writeSys_ioLog (s : State) (r : WriteReg) (v : Word) : (s.writeSys r v).ioLog = s.ioLog := by cases r <;> rfl
@[simp] theorem State.writeSys_storedTo (s : State) (r : WriteReg) (v : Word) : (s.writeSys r v).storedTo = s.storedTo := by cases r <;> rfl
@[simp] theorem State.writeSys_draws (s : State) (r : WriteReg) (v : Word) : (s.writeSys r v).draws = s.draws := by cases r <;> rfl

/-! ### Reading registers after an update -/

/-- A register read after a register write. -/
@[simp] theorem State.reg_setReg (s : State) (r q : Reg) (v : Word) :
    (s.setReg r v).reg q = if q = r then v else s.reg q := by
  simp [State.setReg, State.reg, Vector.getElem_set, BitVec.toNat_inj, eq_comm]

/-- Registers depend on the register file alone. -/
theorem State.reg_congr {s t : State} (h : t.gpr = s.gpr) (r : Reg) : t.reg r = s.reg r := by
  simp [State.reg, h]

@[simp] theorem State.reg_retire (s : State) (f : Flags) (r : Reg) : (s.retire f).reg r = s.reg r := rfl
@[simp] theorem State.reg_jump (s : State) (t : Word) (r : Reg) : (s.jump t).reg r = s.reg r := rfl
@[simp] theorem State.reg_drawn (s : State) (r : Reg) : s.drawn.reg r = s.reg r := rfl
@[simp] theorem State.reg_tick (s : State) (r : Reg) : s.tick.reg r = s.reg r := rfl
@[simp] theorem State.reg_returned (s : State) (r : Reg) : s.returned.reg r = s.reg r := rfl
@[simp] theorem State.reg_entered (s : State) (c : Cause) (ret h : Word) (r : Reg) :
    (s.entered c ret h).reg r = s.reg r := rfl
@[simp] theorem State.reg_writePte (s : State) (a e e' : Word) (r : Reg) : (s.writePte a e e').reg r = s.reg r := rfl
@[simp] theorem State.reg_stored (s : State) (pa : Word) (w : Width) (v : Word) (r : Reg) :
    (s.stored pa w v).reg r = s.reg r := rfl

/-- The processor type depends on the parameters alone. -/
theorem State.isS_congr {s t : State} (h : t.cfg = s.cfg) : t.isS = s.isS := by
  simp [State.isS, h]

/-- The end of memory depends on the parameters and IOSAR alone. -/
theorem State.ramTop_congr {s t : State} (h : t.cfg = s.cfg) (hi : t.iosar = s.iosar) : t.ramTop = s.ramTop := by
  simp [State.ramTop, State.isS_congr h, h, hi]

end Sys2Proof.Machine
end

