-- ==== Sys2Proof/Laws/Ops.lean ====
section
/-! SUPPORT. One lemma per shared operation that says everything it can do: what must hold if it answers a next state. -/

namespace Sys2Proof.Machine

/-! ### Rising lists of numbers -/

theorem risingFrom_mono {lo lo' : Nat} (h : lo' ≤ lo) {l : List Nat} (hl : risingFrom lo l = true) :
    risingFrom lo' l = true := by
  cases l with
  | nil => rfl
  | cons n rest =>
    simp only [risingFrom, Bool.and_eq_true, decide_eq_true_eq] at hl ⊢
    exact ⟨by omega, hl.2⟩

theorem le_of_mem_rising {lo : Nat} {l : List Nat} (hl : risingFrom lo l = true) {n : Nat} (h : n ∈ l) : lo ≤ n := by
  induction l generalizing lo with
  | nil => cases h
  | cons m rest ih =>
    simp only [risingFrom, Bool.and_eq_true, decide_eq_true_eq] at hl
    rcases List.mem_cons.mp h with rfl | h
    · exact hl.1
    · have := ih hl.2 h; omega

@[simp] theorem mem_insertNat (n m : Nat) (l : List Nat) : m ∈ insertNat n l ↔ m = n ∨ m ∈ l := by
  induction l with
  | nil => simp [insertNat]
  | cons k rest ih =>
    simp only [insertNat]
    split
    · simp
    · split
      · subst_vars; simp
      · simp only [List.mem_cons, ih]; exact or_left_comm

theorem rising_insertNat {lo n : Nat} {l : List Nat} (hl : risingFrom lo l = true) (h : lo ≤ n) :
    risingFrom lo (insertNat n l) = true := by
  induction l generalizing lo with
  | nil => simp [insertNat, risingFrom, h]
  | cons m rest ih =>
    simp only [insertNat]
    have hl' := hl
    simp only [risingFrom, Bool.and_eq_true, decide_eq_true_eq] at hl
    split
    · simp only [risingFrom, Bool.and_eq_true, decide_eq_true_eq]; exact ⟨h, by omega, hl.2⟩
    · split
      · exact hl'
      · simp only [risingFrom, Bool.and_eq_true, decide_eq_true_eq]
        exact ⟨hl.1, ih hl.2 (by omega)⟩

theorem rising_erase {lo : Nat} {l : List Nat} (hl : risingFrom lo l = true) (n : Nat) :
    risingFrom lo (l.erase n) = true := by
  induction l generalizing lo with
  | nil => rfl
  | cons m rest ih =>
    simp only [risingFrom, Bool.and_eq_true, decide_eq_true_eq] at hl
    rw [List.erase_cons]
    split
    · exact risingFrom_mono (by omega) hl.2
    · simp only [risingFrom, Bool.and_eq_true, decide_eq_true_eq]; exact ⟨hl.1, ih hl.2⟩

theorem rising_filter {lo : Nat} {l : List Nat} (hl : risingFrom lo l = true) (p : Nat → Bool) :
    risingFrom lo (l.filter p) = true := by
  induction l generalizing lo with
  | nil => rfl
  | cons m rest ih =>
    simp only [risingFrom, Bool.and_eq_true, decide_eq_true_eq] at hl
    rw [List.filter_cons]
    split
    · simp only [risingFrom, Bool.and_eq_true, decide_eq_true_eq]; exact ⟨hl.1, ih hl.2⟩
    · exact risingFrom_mono (by omega) (ih hl.2)

theorem rising_insertAll {l : List Nat} (hl : risingFrom 0 l = true) (f : Nat → Nat) (ks : List Nat) :
    risingFrom 0 (ks.foldl (fun l k => insertNat (f k) l) l) = true := by
  induction ks generalizing l with
  | nil => exact hl
  | cons k ks ih => exact ih (rising_insertNat hl (Nat.zero_le _))

/-! ### Taking an exception -/

/-- If entry answers a next state, it is the entered state, for the interrupt asked for (its entry valid and enabled) or
for 43 in its place (its entry invalid, that of 43 valid and enabled), with the handler word from memory (R212, R213,
R215). -/
theorem State.enter_next {s t : State} {c : Cause} {ret : Word} (h : s.enter c ret = .next t) :
    ∃ c' f h', s.idtc[c'.number]? = some f ∧ idtValid f = true ∧ idtMask f = true ∧
      s.physRead (s.hdlAddr c'.number) = some h' ∧ t = s.entered c' ret h' ∧
      (c' = c ∨ (c' = invalidVector c.number ∧ c.number ≠ 43 ∧
        ∃ g, s.idtc[c.number]? = some g ∧ idtValid g = false)) := by
  have valid : ∀ {c' : Cause} {f : Word}, s.enterValid c' ret f = .next t →
      idtMask f = true ∧ ∃ h', s.physRead (s.hdlAddr c'.number) = some h' ∧ t = s.entered c' ret h' := by
    intro c' f hv
    unfold State.enterValid at hv
    split at hv
    · split at hv
      · cases hv; exact ⟨‹_›, _, ‹_›, rfl⟩
      · cases hv
    · cases hv
  unfold State.enter at h
  split at h
  · cases h
  · rename_i f hf
    split at h
    · obtain ⟨hm, h', hr, rfl⟩ := valid h
      exact ⟨c, f, h', hf, ‹_›, hm, hr, rfl, .inl rfl⟩
    · split at h
      · cases h
      · rename_i hinv hne
        split at h
        · cases h
        · rename_i g hg
          split at h
          · obtain ⟨hm, h', hr, rfl⟩ := valid h
            exact ⟨invalidVector c.number, g, h', hg, ‹_›, hm, hr, rfl,
              .inr ⟨rfl, hne, f, hf, by simpa using hinv⟩⟩
          · cases h

/-- Entry through a valid, enabled entry whose handler word is in memory completes (R215). -/
theorem State.enter_of_valid {s : State} {c : Cause} {ret f h : Word} (hf : s.idtc[c.number]? = some f)
    (hv : idtValid f = true) (hm : idtMask f = true) (hr : s.physRead (s.hdlAddr c.number) = some h) :
    s.enter c ret = .next (s.entered c ret h) := by
  simp [State.enter, State.enterValid, hf, hv, hm, hr]

/-- Entry never answers a refusal: it completes or is a double fault. -/
theorem State.enter_cases (s : State) (c : Cause) (ret : Word) :
    (∃ t, s.enter c ret = .next t) ∨ s.enter c ret = .fault .doubleFault := by
  unfold State.enter State.enterValid
  repeat' split
  all_goals simp

@[simp] theorem State.isS_entered (s : State) (c : Cause) (ret h : Word) : (s.entered c ret h).isS = s.isS := rfl

theorem psrIm_masked (p : Word) : psrIm (psrWithIm p false) = false := by
  simp only [psrIm, psrWithIm, Bool.false_eq_true, if_false, BitVec.getLsbD_and]
  simp

theorem psrIm_kernel (p : Word) : psrIm (psrKernel p) = psrIm p := by
  simp only [psrIm, psrKernel, BitVec.getLsbD_and]
  simp

theorem psrCmod_kernel (p : Word) : psrCmod (psrKernel p) = 0#2 := by
  have h : (0xFFFFFF9F#32).extractLsb' 5 2 = 0#2 := by decide
  simp [psrCmod, psrKernel, BitVec.extractLsb'_and, h]

/-- What every entered state has (R215). -/
theorem State.enteredFrom (s : State) (c : Cause) (ret h : Word) : s.EnteredFrom (s.entered c ret h) where
  pflagr := rfl
  ppsr := rfl
  ppdtr := rfl
  ptidr := rfl
  masked := by
    rw [State.entered_psr]; split
    · rw [psrIm_kernel, psrIm_masked]
    · exact psrIm_masked _
  kernel := by
    by_cases hs : s.isS = true
    · simp [State.kernel, hs, psrCmod_kernel]
    · simp [State.kernel, hs]
  flagr := rfl

/-! ### Parts of an instruction -/

/-- A property of the state that a part of an instruction leaves, whether it ends well or raises an interrupt. -/
def Res.States {α : Type} (x : Res α) (P : State → Prop) : Prop :=
  match x with
  | .ok _ t => P t
  | .raise _ t => P t
  | .fault _ => True
  | .refuse _ => True

theorem Res.States.mono {α : Type} {x : Res α} {P Q : State → Prop} (hx : x.States P) (h : ∀ t, P t → Q t) :
    x.States Q := by
  cases x <;> simp_all [Res.States]

theorem Res.States.bind {α β : Type} {x : Res α} {k : α → State → Res β} {P : State → Prop}
    (hx : x.States P) (hk : ∀ v t, P t → (k v t).States P) : (x.bind k).States P := by
  cases x with
  | ok v t => exact hk v t hx
  | raise c t => exact hx
  | fault f => trivial
  | refuse r => trivial

theorem Res.bind_ok {α β : Type} {x : Res α} {k : α → State → Res β} {v : β} {t : State}
    (h : x.bind k = .ok v t) : ∃ u s1, x = .ok u s1 ∧ k u s1 = .ok v t := by
  cases x with
  | ok u s1 => exact ⟨u, s1, rfl, h⟩
  | raise c s1 => cases h
  | fault f => cases h
  | refuse r => cases h

/-- If an instruction completes after a part of it, the part ended well and the rest completed, or the part raised an
interrupt and its entry completed with PCR as the return address (R217). -/
theorem Res.finish_next {α : Type} {x : Res α} {k : α → State → Answer} {t : State} (h : x.finish k = .next t) :
    (∃ v s1, x = .ok v s1 ∧ k v s1 = .next t) ∨ (∃ c s1, x = .raise c s1 ∧ s1.enter c s1.pcr = .next t) := by
  cases x with
  | ok v s1 => exact .inl ⟨v, s1, rfl, h⟩
  | raise c s1 => exact .inr ⟨c, s1, rfl, h⟩
  | fault f => cases h
  | refuse r => cases h

/-- A privileged instruction completes by its own effect in Kernel Mode, or by entry to 41 in User Mode (R233). -/
theorem State.priv_next {s t : State} {k : Answer} (h : s.priv k = .next t) :
    (s.kernel = true ∧ k = .next t) ∨
    (s.kernel = false ∧ s.cfg.userPrivFault = true ∧ s.enter ⟨41, some s.pcr, none⟩ s.pcr = .next t) := by
  unfold State.priv at h
  split at h
  · exact .inl ⟨‹_›, h⟩
  · split at h
    · exact .inr ⟨by simpa using ‹¬s.kernel = true›, ‹_›, h⟩
    · cases h

theorem State.priv_kernel {s : State} (h : s.kernel = true) (k : Answer) : s.priv k = k := by
  simp [State.priv, h]

theorem State.onlyS_next {s t : State} {k : Answer} (h : s.onlyS k = .next t) : s.isS = true ∧ k = .next t := by
  unfold State.onlyS at h
  split at h
  · exact ⟨‹_›, h⟩
  · cases h

theorem State.onlyS_typeS {s : State} (h : s.isS = true) (k : Answer) : s.onlyS k = k := by
  simp [State.onlyS, h]

theorem State.withAfe_next {s t : State} {code : Code} {k : (Word → Word) → Answer} (h : s.withAfe code k = .next t) :
    ∃ g, afeFunction s.cfg code = some g ∧ k g = .next t := by
  unfold State.withAfe at h
  split at h
  · exact ⟨_, ‹_›, h⟩
  · cases h

theorem State.withAfe_some {s : State} {code : Code} {g : Word → Word} (h : afeFunction s.cfg code = some g)
    (k : (Word → Word) → Answer) : s.withAfe code k = k g := by
  simp [State.withAfe, h]

/-! ### Translation changes page tables and the TLB, and nothing else -/

/-- What a table walk may change: page tables in memory (by A and D flags, R84) and the record of the TLB. -/
structure State.Walked (s t : State) : Prop where
  rest : t = { s with mem := t.mem, tlb := t.tlb }
  wf : s.mem.wf = true → t.mem.wf = true

theorem State.Walked.refl (s : State) : s.Walked s := ⟨rfl, id⟩

theorem State.Walked.trans {s t u : State} (h : s.Walked t) (k : t.Walked u) : s.Walked u := by
  refine ⟨?_, k.wf ∘ h.wf⟩
  have h1 := h.rest
  have h2 := k.rest
  rw [h1] at h2
  exact h2

theorem State.walked_writePte (s : State) (a e e' : Word) : s.Walked (s.writePte a e e') := by
  refine ⟨rfl, fun h => ?_⟩
  rw [State.writePte_mem]
  split
  · exact h
  · exact Memory.wf_writeBE h _ _ _

theorem State.walked_fetchPte (s : State) (a : Word) : (s.fetchPte a).States s.Walked := by
  unfold State.fetchPte
  split
  · trivial
  · split
    · trivial
    · exact State.Walked.refl s

theorem State.walked_finalPte (s : State) (va : Word) (acc : Access) (k : Nat) (a e : Word) :
    (s.finalPte va acc k a e).States s.Walked := by
  unfold State.finalPte
  split
  · trivial
  · split
    · exact State.walked_writePte s _ _ _
    · exact State.walked_writePte s _ _ _

theorem State.walked_walkSecond (s : State) (va : Word) (acc : Access) (g : Geometry) (table : Word) :
    (s.walkSecond va acc g table).States s.Walked := by
  refine Res.States.bind (State.walked_fetchPte s _) fun e t ht => ?_
  split
  · exact ht
  · split
    · trivial
    · exact (State.walked_finalPte t _ _ _ _ _).mono fun u hu => ht.trans hu

theorem State.walked_walkFirst (s : State) (va : Word) (acc : Access) (g : Geometry) (a e : Word) :
    (s.walkFirst va acc g a e).States s.Walked := by
  unfold State.walkFirst
  split
  · exact State.walked_finalPte s _ _ _ _ _
  · split
    · trivial
    · split
      · trivial
      · exact (State.walked_walkSecond _ _ _ _ _).mono fun u hu => (State.walked_writePte s _ _ _).trans hu

theorem State.walked_walk (s : State) (va : Word) (acc : Access) (g : Geometry) :
    (s.walk va acc g).States s.Walked := by
  unfold State.walk
  split
  · trivial
  · refine Res.States.bind (State.walked_fetchPte s _) fun e t ht => ?_
    split
    · exact ht
    · split
      · exact (State.walked_walkFirst t _ _ _ _ _).mono fun u hu => ht.trans hu
      · split
        · trivial
        · exact (State.walked_finalPte t _ _ _ _ _).mono fun u hu => ht.trans hu

/-- Whatever a translation does, it changes page tables and the TLB alone (R84, R92). -/
theorem State.walked_translate (s : State) (va : Word) (acc : Access) : (s.translate va acc).States s.Walked := by
  unfold State.translate
  split
  · exact State.Walked.refl s
  · split
    · trivial
    · exact State.walked_walk s _ _ _

/-- With paging off, and in Type-E, the physical address is the logical one (R76). -/
theorem State.translate_off {s : State} (h : s.isS = false ∨ psrMmuMod s.psr = 0#2) (va : Word) (acc : Access) :
    s.translate va acc = .ok va s := by
  unfold State.translate
  rw [if_pos h]

/-! ### Where in memory a translation may write -/

/-- A property of the state where a part of an instruction ends well, and one where it raises an interrupt. -/
def Res.Ends {α : Type} (x : Res α) (P Q : State → Prop) : Prop :=
  match x with
  | .ok _ t => P t
  | .raise _ t => Q t
  | .fault _ => True
  | .refuse _ => True

/-- Every byte outside the four bytes at each of some addresses reads as before. -/
def State.Touched (s t : State) (l : List Word) : Prop :=
  ∀ b, (∀ a ∈ l, b < a.toNat ∨ a.toNat + 4 ≤ b) → t.mem.read b = s.mem.read b

theorem State.Touched.mono {s t : State} {l l' : List Word} (h : s.Touched t l) (hl : ∀ a ∈ l, a ∈ l') : s.Touched t l' :=
  fun b hb => h b fun a ha => hb a (hl a ha)

theorem State.Touched.trans {s t u : State} {l : List Word} (h : s.Touched t l) (k : t.Touched u l) : s.Touched u l :=
  fun b hb => (k b hb).trans (h b hb)

/-- A write-back touches the PTE alone (R84). -/
theorem State.touched_writePte (s : State) (a e e' : Word) : s.Touched (s.writePte a e e') [a] := by
  intro b hb
  rw [State.writePte_mem]
  split
  · rfl
  · exact Memory.read_writeBE_outside _ _ _ _ (hb a (by simp))

/-- A PTE that is fetched is the word in memory, and the state is as before (R80). -/
theorem State.fetchPte_ends {β : Type} {s : State} {a : Word} {k : Word → State → Res β} {P Q : State → Prop}
    (h : (k (s.mem.readBE a.toNat 4) s).Ends P Q) : ((s.fetchPte a).bind k).Ends P Q := by
  unfold State.fetchPte State.physRead
  split
  · trivial
  · rename_i e he
    split at he
    · cases he
      split
      · trivial
      · exact h
    · cases he

/-- What the TLB holds after the hardware has read a PTE: the new copy, or an older entry brought up to date. -/
theorem mem_tlbRecord {tlb : List TlbEntry} {asid : BitVec 14} {a e e' : Word} {x : TlbEntry}
    (h : x ∈ tlbRecord tlb asid a e e') : x = ⟨asid, a, e'⟩ ∨ ∃ t ∈ tlb, x = t.updated a e e' := by
  refine (List.mem_cons.mp h).imp_right fun hx => ?_
  obtain ⟨t, ht, rfl⟩ := List.mem_map.mp hx
  exact ⟨t, (List.mem_filter.mp ht).1, rfl⟩

/-- Where every copy of a PTE was what memory held, every copy is what the hardware has written (R84). -/
theorem pte_of_mem_tlbRecord {tlb : List TlbEntry} {asid : BitVec 14} {a e e' : Word} {x : TlbEntry}
    (ht : ∀ t ∈ tlb, t.addr = a → t.pte = e) (h : x ∈ tlbRecord tlb asid a e e') (ha : x.addr = a) : x.pte = e' := by
  obtain rfl | ⟨t, hm, rfl⟩ := mem_tlbRecord h
  · rfl
  · by_cases hu : t.addr = a
    · simp [TlbEntry.updated, hu, ht t hm hu]
    · simp [TlbEntry.updated, hu] at ha

/-- A copy of another PTE is as it was (R84). -/
theorem mem_of_mem_tlbRecord {tlb : List TlbEntry} {asid : BitVec 14} {a e e' : Word} {x : TlbEntry}
    (h : x ∈ tlbRecord tlb asid a e e') (ha : x.addr ≠ a) : x ∈ tlb := by
  obtain rfl | ⟨t, hm, rfl⟩ := mem_tlbRecord h
  · exact absurd rfl ha
  · by_cases hu : t.addr = a
    · exact absurd (by simp only [TlbEntry.updated]; split <;> exact hu) ha
    · simpa [TlbEntry.updated, hu] using hm

/-- The end of a walk writes its PTE alone, and no byte if it raises an interrupt (R84, R91). -/
theorem State.finalPte_ends (s : State) (va : Word) (acc : Access) (k : Nat) (a e : Word) :
    (s.finalPte va acc k a e).Ends (s.Touched · [a]) (fun t => t.mem = s.mem) := by
  unfold State.finalPte
  split
  · trivial
  · split
    · simp [Res.Ends]
    · exact State.touched_writePte s _ _ _

/-- The second level of a walk writes its PTE alone, and no byte if it raises an interrupt (R84, R88). -/
theorem State.walkSecond_ends (s : State) (va : Word) (acc : Access) (g : Geometry) (table : Word) :
    (s.walkSecond va acc g table).Ends (s.Touched · [secondPteAddr va g table]) (fun t => t.mem = s.mem) := by
  refine State.fetchPte_ends ?_
  split
  · rfl
  · split
    · trivial
    · exact State.finalPte_ends s _ _ _ _ _

/-- A walk from a first-level PTE writes that PTE and, where it leads to one, a second; if it raises an interrupt, the
first alone (R84, R87, R88). -/
theorem State.walkFirst_ends (s : State) (va : Word) (acc : Access) (g : Geometry) (a e : Word) :
    (s.walkFirst va acc g a e).Ends
      (s.Touched · (a :: if !ptePE e then [secondPteAddr va g (tableOf g e)] else [])) (s.Touched · [a]) := by
  unfold State.walkFirst
  split
  · have := State.finalPte_ends s va acc (32 - g.firstBits) a e
    unfold Res.Ends at this ⊢
    split at this
    · exact State.Touched.mono this (by simp)
    · intro b _; rw [this]
    · trivial
    · trivial
  · split
    · trivial
    · split
      · trivial
      · have h1 := State.touched_writePte s a e (pteTouched false acc e)
        have := State.walkSecond_ends (s.writePte a e (pteTouched false acc e)) va acc g (tableOf g e)
        unfold Res.Ends at this ⊢
        split at this
        · exact (h1.mono (by simp)).trans (State.Touched.mono this (by simp_all))
        · intro b hb; rw [this]; exact h1 b hb
        · trivial
        · trivial

/-- All that a translation may change: the TLB and the PTEs that the walk reads, the first alone if it raises an interrupt
(R84, R88, R92). -/
theorem State.translate_onlyPtes (s : State) (va : Word) (acc : Access) :
    (s.translate va acc).Ends (s.OnlyPtes · (s.pteAddrs va)) (s.OnlyPtes · ((s.pteAddrs va).take 1)) := by
  have hw := State.walked_translate s va acc
  have ht : (s.translate va acc).Ends (s.Touched · (s.pteAddrs va)) (s.Touched · ((s.pteAddrs va).take 1)) := by
    unfold State.translate State.pteAddrs
    split
    · exact fun _ _ => rfl
    · cases pagingOf s.cfg (psrMmuMod s.psr) (psrMmuPs s.psr) with
      | none => trivial
      | some g =>
        simp only [List.take_succ_cons, List.take_zero]
        unfold State.walk
        split
        · trivial
        · refine State.fetchPte_ends ?_
          split
          · exact fun _ _ => rfl
          · split
            · rename_i h2
              simp only [h2, Bool.true_and]
              exact State.walkFirst_ends s _ _ _ _ _
            · split
              · trivial
              · have := State.finalPte_ends s va acc g.offsetBits (s.firstPteAddr va g)
                  (s.mem.readBE (s.firstPteAddr va g).toNat 4)
                unfold Res.Ends at this ⊢
                split at this
                · exact State.Touched.mono this (by simp)
                · intro b _; rw [this]
                · trivial
                · trivial
  have ho : s.pagingOff → s.translate va acc = .ok va s := fun h => State.translate_off h va acc
  unfold Res.Ends at ht ⊢
  split at ht
  · rename_i hr; rw [hr] at hw ho
    exact ⟨hw.rest, ht, fun h => by cases ho h; rfl⟩
  · rename_i hr; rw [hr] at hw ho
    exact ⟨hw.rest, ht, fun h => by cases ho h⟩
  · trivial
  · trivial

/-! ### Data accesses -/

/-- What a data access may change beside the registers its instruction writes: memory, the TLB, the notes of stores and of
I/O, the interrupt state of the units, and the count of free values. -/
structure State.Accessed (s t : State) : Prop where
  rest : t = { s with mem := t.mem, tlb := t.tlb, storedTo := t.storedTo, ioLog := t.ioLog, dps := t.dps, gci := t.gci,
                      draws := t.draws }
  wf : s.mem.wf = true → t.mem.wf = true
  rising : risingFrom 0 s.storedTo = true → risingFrom 0 t.storedTo = true

theorem State.Walked.accessed {s t : State} (h : s.Walked t) : s.Accessed t := by
  have h1 := h.rest
  refine ⟨?_, h.wf, ?_⟩
  · rw [h1]
  · rw [h1]; exact id

theorem State.Accessed.refl (s : State) : s.Accessed s := (State.Walked.refl s).accessed

theorem State.Accessed.trans {s t u : State} (h : s.Accessed t) (k : t.Accessed u) : s.Accessed u := by
  refine ⟨?_, k.wf ∘ h.wf, k.rising ∘ h.rising⟩
  have h1 := h.rest
  have h2 := k.rest
  rw [h1] at h2
  exact h2

theorem State.accessed_ioLoad (s : State) (a : Word) : (s.ioLoad a).States s.Accessed := by
  unfold State.ioLoad
  simp only
  split
  · exact ⟨rfl, id, id⟩
  · split
    · cases unitOfAddr s.cfg a <;> exact ⟨rfl, id, id⟩
    · trivial

theorem State.accessed_ioStore (s : State) (a v : Word) : (s.ioStore a v).States s.Accessed := by
  unfold State.ioStore
  split
  · exact ⟨rfl, id, id⟩
  · trivial

theorem State.accessed_stored (s : State) (pa : Word) (w : Width) (v : Word) : s.Accessed (s.stored pa w v) :=
  ⟨rfl, fun h => Memory.wf_writeBE h _ _ _, fun h => rising_insertAll h _ _⟩

theorem State.accessed_readPhys (s : State) (pa : Word) (w : Width) : (s.readPhys pa w).States s.Accessed := by
  unfold State.readPhys
  split
  · split
    · exact State.accessed_ioLoad s pa
    · trivial
  · split
    · exact State.Accessed.refl s
    · trivial

theorem State.accessed_writePhys (s : State) (pa : Word) (w : Width) (v : Word) :
    (s.writePhys pa w v).States s.Accessed := by
  unfold State.writePhys
  split
  · split
    · exact State.accessed_ioStore s pa v
    · trivial
  · split
    · exact State.accessed_stored s pa w v
    · trivial

/-- Whatever a load does to the state, before its register is written (R92). -/
theorem State.accessed_memRead (s : State) (va : Word) (w : Width) : (s.memRead va w).States s.Accessed := by
  unfold State.memRead
  split
  · exact Res.States.bind ((State.walked_translate s va .read).mono fun _ h => h.accessed)
      fun pa t ht => (State.accessed_readPhys t pa w).mono fun _ hu => ht.trans hu
  · trivial

/-- Whatever a store does to the state (R92). -/
theorem State.accessed_memWrite (s : State) (va : Word) (w : Width) (v : Word) :
    (s.memWrite va w v).States s.Accessed := by
  unfold State.memWrite
  split
  · exact Res.States.bind ((State.walked_translate s va .write).mono fun _ h => h.accessed)
      fun pa t ht => (State.accessed_writePhys t pa w v).mono fun _ hu => ht.trans hu
  · trivial

/-- A fetch changes page tables and the TLB alone (R63, R92). -/
theorem State.walked_fetch (s : State) : s.fetch.States s.Walked := by
  unfold State.fetch
  split
  · refine Res.States.bind (State.walked_translate s _ _) fun pa t ht => ?_
    unfold State.fetchPhys
    split
    · trivial
    · split
      · split
        · trivial
        · exact ht
      · trivial
  · trivial

/-- An aligned load from memory with paging off completes with the bytes there (R92). -/
theorem State.memRead_plain {s : State} (hp : s.isS = false ∨ psrMmuMod s.psr = 0#2) {va : Word} {w : Width}
    (ha : aligned va w = true) (hio : s.isIo va = false) (hm : va.toNat + w.bytes ≤ s.ramTop) :
    s.memRead va w = .ok (s.mem.readBE va.toNat w.bytes) s := by
  simp [State.memRead, ha, State.translate_off hp, Res.bind, State.readPhys, hio, hm]

/-- An aligned store to memory with paging off completes with the bytes stored (R92). -/
theorem State.memWrite_plain {s : State} (hp : s.isS = false ∨ psrMmuMod s.psr = 0#2) {va : Word} {w : Width} (v : Word)
    (ha : aligned va w = true) (hio : s.isIo va = false) (hm : va.toNat + w.bytes ≤ s.ramTop) :
    s.memWrite va w v = .ok () (s.stored va w v) := by
  simp [State.memWrite, ha, State.translate_off hp, Res.bind, State.writePhys, hio, hm]

/-! ### The boundary -/

/-- What the requests of a boundary may change. -/
structure State.Requested (s t : State) : Prop where
  rest : t = { s with arrivals := t.arrivals, pending := t.pending, dps := t.dps, gci := t.gci }
  pending : (risingFrom 4 s.pending = true ∧ ∀ n ∈ s.pending, n ≤ 37) →
    (risingFrom 4 t.pending = true ∧ ∀ n ∈ t.pending, n ≤ 37)

theorem State.Requested.trans {s t u : State} (h : s.Requested t) (k : t.Requested u) : s.Requested u := by
  refine ⟨?_, k.pending ∘ h.pending⟩
  have h1 := h.rest
  have h2 := k.rest
  rw [h1] at h2
  exact h2

theorem State.requested_request (s : State) {n : Nat} (hn : hardwareNumber n = true) : s.Requested (s.request n) := by
  simp only [hardwareNumber, Bool.and_eq_true, decide_eq_true_eq] at hn
  have ins : (risingFrom 4 s.pending = true ∧ ∀ n ∈ s.pending, n ≤ 37) →
      (risingFrom 4 (insertNat n s.pending) = true ∧ ∀ m ∈ insertNat n s.pending, m ≤ 37) := by
    intro h
    refine ⟨rising_insertNat h.1 hn.1, fun m hm => ?_⟩
    rcases (mem_insertNat _ _ _).mp hm with rfl | hm
    · exact hn.2
    · exact h.2 m hm
  unfold State.request
  split
  · split
    · cases unitOfNumber n <;> exact ⟨rfl, ins⟩
    · exact ⟨rfl, id⟩
  · exact ⟨rfl, ins⟩

theorem State.requested_all (s : State) (ns : List Nat) (h : ∀ n ∈ ns, hardwareNumber n = true) :
    s.Requested (ns.foldl State.request s) := by
  induction ns generalizing s with
  | nil => exact ⟨rfl, id⟩
  | cons n ns ih =>
    exact (State.requested_request s (h n (by simp))).trans (ih _ fun m hm => h m (by simp [hm]))

/-- The requests of a boundary change the schedule, the pending set and the units' interrupt state alone (R210, R223). -/
theorem State.requested_withRequests (s : State) (h : s.requestsNow.all hardwareNumber = true) :
    s.Requested s.withRequests := by
  have h1 : s.Requested { s with arrivals := s.arrivals.tail } := ⟨rfl, id⟩
  exact h1.trans (State.requested_all _ _ (by simpa using h))

/-- If a cycle answers a next state, it took a deliverable hardware interrupt, or ran the next instruction (R4, R211). -/
theorem State.cycle_next {s t : State} (h : s.cycle = .next t) :
    s.requestsNow.all hardwareNumber = true ∧
    ((∃ n, s.atBoundary.boundary = some n ∧ s.atBoundary.enter (hardwareCause n) s.atBoundary.pcr = .next t) ∨
     (s.atBoundary.boundary = none ∧ s.atBoundary.runNext = .next t)) := by
  unfold State.cycle at h
  split at h
  · refine ⟨‹_›, ?_⟩
    split at h
    · exact .inl ⟨_, ‹_›, h⟩
    · exact .inr ⟨‹_›, h⟩
  · cases h

/-- If the next instruction completes, its word was fetched and ran, or the fetch raised an interrupt that was entered. -/
theorem State.runNext_next {s t : State} (h : s.runNext = .next t) :
    (∃ w s1, s.fetch = .ok w s1 ∧ s1.runWord w = .next t) ∨
    (∃ c s1, s.fetch = .raise c s1 ∧ s1.enter c s1.pcr = .next t) :=
  Res.finish_next h

end Sys2Proof.Machine
end

