-- ==== Sys2Proof/Laws/Exec.lean ====
section
/-! SUPPORT. What an instruction that answers a next state has done: it raised an interrupt that was entered, or it had its
own effect. One lemma per shared meaning, and one over all instructions. -/

namespace Sys2Proof.Machine

/-- An interrupt raised by the instruction at `s` was entered, with the instruction's address or the next one saved; where
the instruction makes no data access, on the state as it was (R215, R217, R222). -/
def State.Raised (access : Bool) (s t : State) : Prop :=
  ∃ c ret s1, s.Walked s1 ∧ (access = false → s1 = s) ∧ s1.enter c ret = .next t ∧ (ret = s.pcr ∨ ret = s.pcr + 4#32)

/-- A load that raises an interrupt has changed page tables and the TLB alone (R222). -/
theorem State.memRead_raise {s : State} {va w c s1} (h : s.memRead va w = .raise c s1) : s.Walked s1 := by
  unfold State.memRead at h
  split at h
  · have hw := State.walked_translate s va .read
    cases ht : s.translate va .read with
    | ok pa s2 =>
      rw [ht] at h
      simp only [Res.bind, State.readPhys, State.ioLoad] at h
      repeat' split at h
      all_goals cases h
    | raise c' s2 => rw [ht] at h hw; cases h; exact hw
    | fault f => rw [ht] at h; cases h
    | refuse r => rw [ht] at h; cases h
  · cases h

/-- A store that raises an interrupt has changed page tables and the TLB alone (R222). -/
theorem State.memWrite_raise {s : State} {va w v c s1} (h : s.memWrite va w v = .raise c s1) : s.Walked s1 := by
  unfold State.memWrite at h
  split at h
  · have hw := State.walked_translate s va .write
    cases ht : s.translate va .write with
    | ok pa s2 =>
      rw [ht] at h
      simp only [Res.bind, State.writePhys, State.ioStore] at h
      repeat' split at h
      all_goals cases h
    | raise c' s2 => rw [ht] at h hw; cases h; exact hw
    | fault f => rw [ht] at h; cases h
    | refuse r => rw [ht] at h; cases h
  · cases h

theorem State.fetch_raise {s : State} {c s1} (h : s.fetch = .raise c s1) : s.Walked s1 := by
  have := State.walked_fetch s
  rw [h] at this; exact this

theorem State.fetch_ok {s : State} {c s1} (h : s.fetch = .ok c s1) : s.Walked s1 := by
  have := State.walked_fetch s
  rw [h] at this; exact this

theorem State.Walked.pcr {s s1 : State} (h : s.Walked s1) : s1.pcr = s.pcr := by rw [h.rest]

/-- What a load instruction did, if it completed. -/
theorem State.load_next {s t : State} {afe rd ea w} (h : s.load afe rd ea w = .next t) :
    State.Raised true s t ∨ ∃ s1 v, s.Accessed s1 ∧ t = (s1.setReg rd v).retire 0#5 := by
  obtain ⟨g, -, h⟩ := State.withAfe_next h
  rcases Res.finish_next h with ⟨v, s1, h1, h2⟩ | ⟨c, s1, h1, h2⟩
  · right
    have := State.accessed_memRead s (s.operand ea) w
    rw [h1] at this
    cases h2; exact ⟨s1, _, this, rfl⟩
  · left
    have hw := State.memRead_raise h1
    exact ⟨c, _, s1, hw, nofun, h2, .inl (State.Walked.pcr hw)⟩

/-- What a store instruction did, if it completed. -/
theorem State.store_next {s t : State} {afe rd ea w} (h : s.store afe rd ea w = .next t) :
    State.Raised true s t ∨ ∃ s1, s.Accessed s1 ∧ t = s1.retire 0#5 := by
  obtain ⟨g, -, h⟩ := State.withAfe_next h
  rcases Res.finish_next h with ⟨v, s1, h1, h2⟩ | ⟨c, s1, h1, h2⟩
  · right
    have := State.accessed_memWrite s (s.operand ea) w (s.reg rd)
    rw [h1] at this
    cases h2; exact ⟨s1, this, rfl⟩
  · left
    have hw := State.memWrite_raise h1
    exact ⟨c, _, s1, hw, nofun, h2, .inl (State.Walked.pcr hw)⟩

/-- What a push did, if it completed. -/
theorem State.pushWord_next {s t : State} {v} (h : s.pushWord v = .next t) :
    State.Raised true s t ∨ ∃ s1 x, s.Accessed s1 ∧ t = { s1 with spr := x }.retire 0#5 := by
  rcases Res.finish_next h with ⟨v, s1, h1, h2⟩ | ⟨c, s1, h1, h2⟩
  · right
    have := State.accessed_memWrite s s.pushAddr .word ‹_›
    rw [h1] at this
    cases h2; exact ⟨s1, _, this, rfl⟩
  · left
    have hw := State.memWrite_raise h1
    exact ⟨c, _, s1, hw, nofun, h2, .inl (State.Walked.pcr hw)⟩

/-- What a pop did, if it completed. -/
theorem execPop_next {s t : State} {afe rd} (h : execPop afe rd s = .next t) :
    State.Raised true s t ∨ ∃ s1 v x, s.Accessed s1 ∧ t = ({ s1 with spr := x }.setReg rd v).retire 0#5 := by
  obtain ⟨g, -, h⟩ := State.withAfe_next h
  rcases Res.finish_next h with ⟨v, s1, h1, h2⟩ | ⟨c, s1, h1, h2⟩
  · right
    have := State.accessed_memRead s s.popAddr .word
    rw [h1] at this
    cases h2; exact ⟨s1, _, _, this, rfl⟩
  · left
    have hw := State.memRead_raise h1
    exact ⟨c, _, s1, hw, nofun, h2, .inl (State.Walked.pcr hw)⟩

/-- What a shift did, if it completed: within the width, or beyond it with a value drawn (R137, R138). -/
theorem State.shift_next {s t : State} {afe rd b op} (h : s.shift afe rd b op = .next t) :
    ∃ v f, t = (s.setReg rd v).retire f ∨ t = (s.drawn.setReg rd v).retire f := by
  obtain ⟨g, -, h⟩ := State.withAfe_next h
  dsimp only at h
  repeat' split at h
  all_goals cases h
  · exact ⟨_, _, .inl rfl⟩
  · exact ⟨_, _, .inr rfl⟩

/-- What may be written to PSR is what PSR may hold (R177). -/
theorem psrLegal_of_writable {c : Config} {p : Word} (h : psrWritable c p = true) : psrLegal c p = true := by
  simp only [psrWritable, Bool.and_eq_true] at h; exact h.1

/-- A privileged instruction completes in Kernel Mode, or raises an interrupt on the state as it is (R183, R233). -/
theorem State.priv_or_raised {s t : State} {k : Answer} (h : s.priv k = .next t) :
    State.Raised false s t ∨ (s.kernel = true ∧ k = .next t) := by
  rcases State.priv_next h with h | ⟨-, -, h⟩
  · exact .inr h
  · exact .inl ⟨_, _, s, State.Walked.refl s, fun _ => rfl, h, .inl rfl⟩

/-- What an instruction does by its own effect, as far as every instruction is concerned: which fields it writes, and
under what condition. -/
def DirectEffect (i : Instr) (s t : State) : Prop :=
  match i with
  | .add _ rd _ | .mul _ rd _ => ∃ v f, t = (s.setReg rd v).retire f
  | .shl _ rd _ | .shr _ rd _ => ∃ v f, t = (s.setReg rd v).retire f ∨ t = (s.drawn.setReg rd v).retire f
  | .cmp _ _ _ | .test _ _ _ => ∃ f, t = s.retire f
  | .wl16 rd _ | .lil rd _ | .lih rd _ | .movepc _ rd _ | .srspr _ rd => ∃ v, t = (s.setReg rd v).retire 0#5
  | .clw d | .srRegR _ d => ∃ v, t = (s.setReg d.rd v).retire 0#5
  | .ld8 _ rd _ | .ld16 _ rd _ | .ld32 _ rd _ => ∃ s1 v, s.Accessed s1 ∧ t = (s1.setReg rd v).retire 0#5
  | .st8 _ _ _ | .st16 _ _ _ | .st32 _ _ _ => ∃ s1, s.Accessed s1 ∧ t = s1.retire 0#5
  | .push _ _ | .ppush => ∃ s1 x, s.Accessed s1 ∧ t = { s1 with spr := x }.retire 0#5
  | .pop _ rd => ∃ s1 v x, s.Accessed s1 ∧ t = ({ s1 with spr := x }.setReg rd v).retire 0#5
  | .branch _ _ => ∃ p, t = { s with flagr := 0#5, pcr := p }
  | .ib => s.kernel = true ∧ psrLegal s.cfg s.ppsr = true ∧ t = s.returned
  | .srspw _ _ => ∃ x, t = { s with spr := x }.retire 0#5
  | .srieiw _ _ => s.kernel = true ∧ ∃ b, t = { s with psr := psrWithIm s.psr b }.retire 0#5
  | .sridtw _ _ => s.kernel = true ∧ ∃ x, t = { s with idtr := x }.retire 0#5
  | .swi _ _ _ => False
  | .idts => s.kernel = true ∧ t = { s with idtc := s.idtFlags 0 idtEntries }.retire 0#5
  | .srRegW r rs =>
    s.kernel = true ∧ (r = .psr → psrWritable s.cfg (s.reg rs) = true) ∧ t = (s.writeSys r (s.reg rs)).retire 0#5
  | .frcrCopyOut => ∃ a b, t = { s with frchr := a, frclr := b }.retire 0#5
  | .frcrCopyIn => s.kernel = true ∧ ∃ a, t = { s with frcr := a }.retire 0#5
  | .tlbFlush => s.kernel = true ∧ ∃ l, t = { s with tlb := l }.retire 0#5
  | .sync => t = s.retire 0#5

/-- If an instruction answers a next state, it raised an interrupt that was entered, or it had its own effect. -/
theorem exec_next {i : Instr} {s t : State} (h : exec i s = .next t) :
    State.Raised (isLoad i || isStore i) s t ∨ DirectEffect i s t := by
  cases i <;> simp only [exec] at h <;> simp only [DirectEffect]
  case add => obtain ⟨g, -, h⟩ := State.withAfe_next h; cases h; exact .inr ⟨_, _, rfl⟩
  case mul => obtain ⟨g, -, h⟩ := State.withAfe_next h; cases h; exact .inr ⟨_, _, rfl⟩
  case cmp => obtain ⟨g, -, h⟩ := State.withAfe_next h; cases h; exact .inr ⟨_, rfl⟩
  case test => obtain ⟨g, -, h⟩ := State.withAfe_next h; cases h; exact .inr ⟨_, rfl⟩
  case shl => exact .inr (State.shift_next h)
  case shr => exact .inr (State.shift_next h)
  case wl16 => cases h; exact .inr ⟨_, rfl⟩
  case lil => cases h; exact .inr ⟨_, rfl⟩
  case lih => cases h; exact .inr ⟨_, rfl⟩
  case clw => obtain ⟨g, -, h⟩ := State.withAfe_next h; cases h; exact .inr ⟨_, rfl⟩
  case movepc => obtain ⟨g, -, h⟩ := State.withAfe_next h; cases h; exact .inr ⟨_, rfl⟩
  case srspr => obtain ⟨g, -, h⟩ := State.withAfe_next h; cases h; exact .inr ⟨_, rfl⟩
  case srspw => obtain ⟨g, -, h⟩ := State.withAfe_next h; cases h; exact .inr ⟨_, rfl⟩
  case ld8 => exact State.load_next h
  case ld16 => exact State.load_next h
  case ld32 => exact State.load_next h
  case st8 => exact State.store_next h
  case st16 => exact State.store_next h
  case st32 => exact State.store_next h
  case push => obtain ⟨g, -, h⟩ := State.withAfe_next h; exact State.pushWord_next h
  case ppush => exact State.pushWord_next h
  case pop => exact execPop_next h
  case branch => 
    unfold execBranch at h
    split at h <;> cases h <;> exact .inr ⟨_, rfl⟩
  case ib =>
    rcases State.priv_or_raised h with h | ⟨hk, h⟩
    · exact .inl h
    · split at h
      · cases h; exact .inr ⟨hk, ‹_›, rfl⟩
      · cases h
  case srieiw =>
    obtain ⟨g, -, h⟩ := State.withAfe_next h
    rcases State.priv_or_raised h with h | ⟨hk, h⟩
    · exact .inl h
    · cases h; exact .inr ⟨hk, _, rfl⟩
  case sridtw =>
    obtain ⟨g, -, h⟩ := State.withAfe_next h
    rcases State.priv_or_raised h with h | ⟨hk, h⟩
    · exact .inl h
    · split at h <;> cases h; exact .inr ⟨hk, _, rfl⟩
  case swi =>
    obtain ⟨-, h⟩ := State.onlyS_next h
    obtain ⟨g, -, h⟩ := State.withAfe_next h
    split at h
    · exact .inl ⟨_, _, s, State.Walked.refl s, fun _ => rfl, h, .inr rfl⟩
    · cases h
  case idts =>
    rcases State.priv_or_raised h with h | ⟨hk, h⟩
    · exact .inl h
    · repeat' split at h
      all_goals cases h
      exact .inr ⟨hk, rfl⟩
  case srRegR =>
    unfold execSrRegR at h
    split at h
    · obtain ⟨g, -, h⟩ := State.withAfe_next h
      split at h
      · cases h; exact .inr ⟨_, rfl⟩
      · rcases State.priv_or_raised h with h | ⟨hk, h⟩
        · exact .inl h
        · cases h; exact .inr ⟨_, rfl⟩
    · cases h
  case srRegW r rs =>
    unfold execSrRegW at h
    split at h
    · rcases State.priv_or_raised h with h | ⟨hk, h⟩
      · exact .inl h
      · split at h
        · cases h
        · cases h
          refine .inr ⟨hk, ?_, rfl⟩
          intro hr; cases hp : psrWritable s.cfg (s.reg rs) <;> simp_all
    · cases h
  case frcrCopyOut => cases h; exact .inr ⟨_, _, rfl⟩
  case frcrCopyIn =>
    rcases State.priv_or_raised h with h | ⟨hk, h⟩
    · exact .inl h
    · cases h; exact .inr ⟨hk, _, rfl⟩
  case tlbFlush =>
    obtain ⟨-, h⟩ := State.onlyS_next h
    rcases State.priv_or_raised h with h | ⟨hk, h⟩
    · exact .inl h
    · cases h; exact .inr ⟨hk, _, rfl⟩
  case sync => obtain ⟨-, h⟩ := State.onlyS_next h; cases h; exact .inr rfl

end Sys2Proof.Machine
end

