-- ==== Sys2Proof/Laws/Complete.lean ====
section
/-! SUPPORT. What completes: a register write, an access that translates, an entry through a vector, and what the boundary
and the step can do. -/

namespace Sys2Proof.Machine

/-- Writing a register and retiring is what `WroteReg` says. -/
theorem State.wroteReg (s : State) (rd : Reg) (v : Word) (f : Flags) : s.WroteReg ((s.setReg rd v).retire f) rd v f where
  value := by show (s.setReg rd v).reg rd = v; rw [State.reg_setReg]; simp
  others := by intro r h; show (s.setReg rd v).reg r = _; rw [State.reg_setReg]; simp [h]
  flags := rfl
  next := rfl
  memory := fun _ => rfl
  rest := rfl

/-- A width is at most four bytes (R68). -/
theorem Width.bytes_le (w : Width) : w.bytes ≤ 4 := by cases w <;> decide

/-- `I/O` and the end of memory depend on the parameters and IOSAR alone (R61). -/
theorem State.isIo_congr {s t : State} (hc : t.cfg = s.cfg) (hi : t.iosar = s.iosar) (a : Word) : t.isIo a = s.isIo a := by
  simp [State.isIo, State.isS_congr hc, hi]

/-- A plain access is an access whose translation is the identity (R92). -/
theorem State.PlainAccess.translated {s : State} {va : Word} {w : Width} (h : s.PlainAccess va w) (acc : Access) :
    s.Translated va acc w va s where
  aligned := h.aligned
  translation := State.translate_off h.pagingOff va acc
  memory := h.memory
  inside := h.inside

/-- A translation changes page tables and the TLB alone, and keeps memory canonical (R84). -/
theorem State.Translated.walked {s s1 : State} {va acc w pa} (h : s.Translated va acc w pa s1) : s.Walked s1 := by
  have := State.walked_translate s va acc
  rw [h.translation] at this; exact this

/-- A load whose translation succeeds completes with the bytes at the physical address (R92). -/
theorem State.memRead_translated {s s1 : State} {va w pa} (h : s.Translated va .read w pa s1) :
    s.memRead va w = .ok (s1.mem.readBE pa.toNat w.bytes) s1 := by
  have e := h.walked.rest
  have hc : s1.cfg = s.cfg := by rw [e]
  have hi : s1.iosar = s.iosar := by rw [e]
  have ha : Machine.aligned va w = true := by simp [Machine.aligned, h.aligned]
  simp [State.memRead, ha, h.translation, Res.bind, State.readPhys, State.isIo_congr hc hi, h.memory,
    State.ramTop_congr hc hi, h.inside]

/-- A store whose translation succeeds completes with the bytes stored at the physical address (R92). -/
theorem State.memWrite_translated {s s1 : State} {va w pa} (v : Word) (h : s.Translated va .write w pa s1) :
    s.memWrite va w v = .ok () (s1.stored pa w v) := by
  have e := h.walked.rest
  have hc : s1.cfg = s.cfg := by rw [e]
  have hi : s1.iosar = s.iosar := by rw [e]
  have ha : Machine.aligned va w = true := by simp [Machine.aligned, h.aligned]
  simp [State.memWrite, ha, h.translation, Res.bind, State.writePhys, State.isIo_congr hc hi, h.memory,
    State.ramTop_congr hc hi, h.inside]

/-- The addresses noted after a store (R74). -/
theorem mem_insertAll (f : Nat → Nat) (ks l : List Nat) (a : Nat) :
    a ∈ ks.foldl (fun l k => insertNat (f k) l) l ↔ a ∈ l ∨ ∃ k ∈ ks, a = f k := by
  induction ks generalizing l with
  | nil => simp
  | cons k ks ih =>
    simp only [List.foldl_cons, ih, mem_insertNat, List.mem_cons, exists_eq_or_imp]
    constructor
    · rintro ((h | h) | h)
      · exact .inr (.inl h)
      · exact .inl h
      · exact .inr (.inr h)
    · rintro (h | h | h)
      · exact .inl (.inr h)
      · exact .inl (.inl h)
      · exact .inr h

/-! ### Entry -/

/-- Entry through a valid, enabled vector whose handler word is in memory completes (R215). -/
theorem State.enter_vector {s : State} {c : Cause} {h : Word} (v : s.Vector c.number h) (ret : Word) :
    s.enter c ret = .next (s.entered c ret h) := by
  obtain ⟨⟨f, h1, h2, h3⟩, h4⟩ := v
  exact State.enter_of_valid h1 h2 h3 h4

/-- A bit of PSR that entry does not write (R215). -/
theorem psr_entered_bit (s : State) (c : Cause) (ret h : Word) {k : Nat} (h2 : k ≠ 2) (h5 : k ≠ 5) (h6 : k ≠ 6) :
    (s.entered c ret h).psr.getLsbD k = s.psr.getLsbD k := by
  by_cases hk : k < 32
  · have hi : ∀ k : Fin 32, k.val ≠ 2 → (0xFFFFFFFB#32).getLsbD k.val = true := by decide
    have hm : ∀ k : Fin 32, k.val ≠ 5 → k.val ≠ 6 → (0xFFFFFF9F#32).getLsbD k.val = true := by decide
    rw [State.entered_psr]
    split <;> simp [psrKernel, psrWithIm, BitVec.getLsbD_and, hi ⟨k, hk⟩ h2, hm ⟨k, hk⟩ h5 h6]
  · rw [BitVec.getLsbD_of_ge _ _ (by omega), BitVec.getLsbD_of_ge _ _ (by omega)]

/-- What entry leaves alone (R215). -/
theorem State.keptByEntry (s : State) (c : Cause) (ret h : Word) : s.KeptByEntry (s.entered c ret h) :=
  ⟨rfl, rfl, rfl, rfl, rfl, rfl, rfl, rfl, fun _ => rfl, fun _ => psr_entered_bit s c ret h⟩

/-- Entry changes nothing but what it writes (R215). -/
theorem State.entryOnly (s : State) (c : Cause) (ret h : Word) : s.EntryOnly (s.entered c ret h) := rfl

/-- A vector stays the same vector while the parameters, IOSAR, IDTR, the IDT copy and memory do. -/
theorem State.Vector.congr {s t : State} {n : Nat} {h : Word} (hc : t.cfg = s.cfg) (h1 : t.idtc = s.idtc)
    (h2 : t.mem = s.mem) (h3 : t.iosar = s.iosar) (h4 : t.idtr = s.idtr) (v : s.Vector n h) : t.Vector n h := by
  obtain ⟨⟨f, hf⟩, hh⟩ := v
  refine ⟨⟨f, by rw [h1]; exact hf⟩, ?_⟩
  simp only [State.physRead, State.hdlAddr, State.ramTop_congr hc h3, h2, h4, hc] at *
  exact hh

/-! ### The boundary and the step -/

/-- The interrupt state of a unit after that of a unit has been set. -/
theorem State.unitState_setUnit (s : State) (u v : IoUnit) (x : UnitState) :
    (s.setUnit u x).unitState v = if v = u then x else s.unitState v := by cases u <;> cases v <;> rfl

/-- What one request may change. -/
theorem State.request_rest (s : State) (n : Nat) :
    s.request n = { s with pending := (s.request n).pending, dps := (s.request n).dps, gci := (s.request n).gci } := by
  unfold State.request
  split
  · split
    · cases unitOfNumber n <;> rfl
    · rfl
  · rfl

/-- What the requests of a boundary may change. -/
theorem State.requests_rest (s : State) (ns : List Nat) :
    ns.foldl State.request s =
      { s with pending := (ns.foldl State.request s).pending, dps := (ns.foldl State.request s).dps,
               gci := (ns.foldl State.request s).gci } := by
  induction ns generalizing s with
  | nil => rfl
  | cons n ns ih =>
    have h := ih (s.request n)
    rw [State.request_rest s n] at h
    rw [List.foldl_cons, State.request_rest s n]
    exact h

/-- The processor type is none of the things a request changes. -/
theorem State.isS_request (s : State) (n : Nat) : (s.request n).isS = s.isS :=
  State.isS_congr (by rw [State.request_rest])

/-- Type-E: every request of a boundary becomes pending, and no unit changes (R210; log 26). -/
theorem State.requests_typeE {s : State} (hs : s.isS = false) (ns : List Nat) :
    (ns.foldl State.request s).dps = s.dps ∧ (ns.foldl State.request s).gci = s.gci ∧
    ∀ m, m ∈ (ns.foldl State.request s).pending ↔ m ∈ s.pending ∨ m ∈ ns := by
  induction ns generalizing s with
  | nil => simp
  | cons n ns ih =>
    obtain ⟨h1, h2, h3⟩ := ih ((State.isS_request s n).trans hs)
    have e : s.request n = { s with pending := insertNat n s.pending } := by simp [State.request, hs]
    rw [List.foldl_cons]
    refine ⟨by rw [h1, e], by rw [h2, e], fun m => ?_⟩
    rw [h3, e, List.mem_cons]
    simp only [mem_insertNat, or_comm, or_left_comm, or_assoc]

/-- Type-S: the first request of each unit in S0 is made, and no other (R210, R223; log 60). -/
theorem State.requests_typeS {s : State} (hs : s.isS = true) (ns : List Nat) :
    (∀ u, (ns.foldl State.request s).unitState u =
      match s.unitState u with
      | .i0 k => .i0 k
      | .s0 =>
        match ns.find? fun n => unitOfNumber n == u with
        | some n => .i0 n
        | none => .s0) ∧
    ∀ m, m ∈ (ns.foldl State.request s).pending ↔
      m ∈ s.pending ∨ s.unitState (unitOfNumber m) = .s0 ∧ ns.find? (fun n => unitOfNumber n == unitOfNumber m) = some m := by
  induction ns generalizing s with
  | nil =>
    refine ⟨fun u => ?_, fun m => by simp⟩
    show s.unitState u = _
    cases s.unitState u <;> rfl
  | cons n ns ih =>
    obtain ⟨h1, h2⟩ := ih ((State.isS_request s n).trans hs)
    rw [List.foldl_cons]
    cases hu : s.unitState (unitOfNumber n) with
    | i0 k =>
      have e : s.request n = s := by simp [State.request, hs, hu]
      rw [e] at h1 h2 ⊢
      refine ⟨fun u => ?_, fun m => ?_⟩
      · rw [h1]
        by_cases hn : unitOfNumber n = u
        · subst hn; rw [hu]
        · simp [hn]
      · rw [h2]
        by_cases hn : unitOfNumber n = unitOfNumber m
        · rw [← hn, hu]; simp
        · simp [hn]
    | s0 =>
      have eu : ∀ u, (s.request n).unitState u = if u = unitOfNumber n then .i0 n else s.unitState u := fun u => by
        rw [← State.unitState_setUnit]
        simp only [State.request, hs, hu]
        cases u <;> rfl
      have ep : (s.request n).pending = insertNat n s.pending := by simp [State.request, hs, hu]
      refine ⟨fun u => ?_, fun m => ?_⟩
      · rw [h1, eu]
        by_cases hn : unitOfNumber n = u
        · subst hn; simp [hu]
        · simp [hn, Ne.symm hn]
      · rw [h2, eu, ep, mem_insertNat]
        by_cases hn : unitOfNumber n = unitOfNumber m
        · rw [← hn, hu]
          simp [eq_comm, or_comm]
        · have : m ≠ n := fun h => hn (by rw [h])
          simp [hn, Ne.symm hn, this]

/-- What the boundary before an instruction may change (R35, R210, R223). -/
theorem State.atBoundary_rest (s : State) :
    s.atBoundary =
      { s with arrivals := s.arrivals.tail, pending := s.atBoundary.pending, dps := s.atBoundary.dps,
               gci := s.atBoundary.gci, frcr := s.frcr + Config.frcAdvance s.draws, draws := s.draws + 1 } := by
  show s.withRequests.tick = _
  rw [State.withRequests, State.requests_rest]
  rfl

/-- What a step that answers a next state has done: it entered an interrupt, or an instruction had its own effect; page
tables and the TLB may have changed before either (R4). -/
theorem step_next {s t : State} (h : step s = .next t) :
    s.requestsNow.all hardwareNumber = true ∧
    ((∃ c ret s1 h', s.atBoundary.Walked s1 ∧ t = s1.entered c ret h' ∧
        (ret = s.atBoundary.pcr ∨ ret = s.atBoundary.pcr + 4#32)) ∨
     (∃ i s1, s.atBoundary.Walked s1 ∧ exec i s1 = .next t ∧ DirectEffect i s1 t)) := by
  obtain ⟨hr, h⟩ := State.cycle_next h
  refine ⟨hr, ?_⟩
  rcases h with ⟨n, -, h⟩ | ⟨-, h⟩
  · obtain ⟨c', f, h', -, -, -, -, rfl, -⟩ := State.enter_next h
    exact .inl ⟨c', _, _, h', State.Walked.refl _, rfl, .inl rfl⟩
  · rcases State.runNext_next h with ⟨w, s1, hf, h⟩ | ⟨c, s1, hf, h⟩
    · have hw := State.fetch_ok hf
      unfold State.runWord at h
      split at h
      · rcases exec_next h with ⟨c, ret, s2, hw2, -, he, hret⟩ | hd
        · obtain ⟨c', f, h', -, -, -, -, rfl, -⟩ := State.enter_next he
          rw [hw.pcr] at hret
          exact .inl ⟨c', ret, s2, h', hw.trans hw2, rfl, hret⟩
        · exact .inr ⟨_, s1, hw, h, hd⟩
      · unfold State.invalidInstruction at h
        split at h
        · obtain ⟨c', f, h', -, -, -, -, rfl, -⟩ := State.enter_next h
          exact .inl ⟨c', _, s1, h', hw, rfl, .inl hw.pcr⟩
        · cases h
    · have hw := State.fetch_raise hf
      obtain ⟨c', f, h', -, -, -, -, rfl, -⟩ := State.enter_next h
      exact .inl ⟨c', _, s1, h', hw, rfl, .inl hw.pcr⟩

end Sys2Proof.Machine
end

