-- ==== Sys2Proof/Laws/PerInstr.lean ====
section
/-! SUPPORT. One statement about every instruction as syntax, lemma by lemma: bit 31 of its word is 0, as every format of
30_encoding.md R122 has it, and an instruction that Type-E has carries the AFE code 0 (R113). -/

namespace Sys2Proof.Laws.F

open Sys2Proof Sys2Proof.Machine

/-- Bit 31 of the word is 0 (R122), and Type-E has no AFE (R113). -/
def Statement (i : Instr) : Prop :=
  (∀ w, encode i = some w → w.getLsbD 31 = false) ∧ (i.inTypeE = true → afeOf i = 0#4)

/-- Bit 31 of an assembled word is 0 (R122). -/
theorem assemble_bit31 (op : BitVec 10) (flag : BitVec 1) (code : Code) (mid : BitVec 6) (rd rs : BitVec 5) :
    (assemble op flag code mid rd rs).getLsbD 31 = false := by
  rw [getLsbD_assemble]; simp

/-- The same for formats O2 and I11. -/
theorem encodeTwo_bit31 (op : BitVec 10) (afe : Code) (rd : Reg) (b : Operand) :
    (encodeTwo op afe rd b).getLsbD 31 = false := by
  cases b <;> exact assemble_bit31 _ _ _ _ _ _

/-- A word that an instruction has is the word its encoding writes. -/
theorem word_bit31 {v w : Word} (h : some v = some w) (hv : v.getLsbD 31 = false) : w.getLsbD 31 = false :=
  Option.some.inj h ▸ hv

/-- Type-E admits the code 0 alone. -/
theorem typeE_afe {a : Code} (h : (a == 0#4) = true) : a = 0#4 := by simpa using h

theorem add (afe : Code) (rd : Reg) (b : Operand) : Statement (.add afe rd b) :=
  ⟨fun _ h => word_bit31 h (encodeTwo_bit31 _ _ _ _), typeE_afe⟩
theorem mul (afe : Code) (rd : Reg) (b : Operand) : Statement (.mul afe rd b) :=
  ⟨fun _ h => word_bit31 h (encodeTwo_bit31 _ _ _ _), typeE_afe⟩
theorem cmp (afe : Code) (rd : Reg) (b : Operand) : Statement (.cmp afe rd b) :=
  ⟨fun _ h => word_bit31 h (encodeTwo_bit31 _ _ _ _), typeE_afe⟩
theorem shl (afe : Code) (rd : Reg) (b : Operand) : Statement (.shl afe rd b) :=
  ⟨fun _ h => word_bit31 h (encodeTwo_bit31 _ _ _ _), typeE_afe⟩
theorem shr (afe : Code) (rd : Reg) (b : Operand) : Statement (.shr afe rd b) :=
  ⟨fun _ h => word_bit31 h (encodeTwo_bit31 _ _ _ _), typeE_afe⟩
theorem test (afe : Code) (rd : Reg) (b : Operand) : Statement (.test afe rd b) :=
  ⟨fun _ h => word_bit31 h (encodeTwo_bit31 _ _ _ _), typeE_afe⟩
theorem wl16 (rd : Reg) (imm : BitVec 16) : Statement (.wl16 rd imm) :=
  ⟨fun _ h => word_bit31 h (assemble_bit31 _ _ _ _ _ _), fun _ => rfl⟩
theorem lil (rd : Reg) (imm : BitVec 16) : Statement (.lil rd imm) :=
  ⟨fun _ h => word_bit31 h (assemble_bit31 _ _ _ _ _ _), fun _ => rfl⟩
theorem lih (rd : Reg) (imm : BitVec 16) : Statement (.lih rd imm) :=
  ⟨fun _ h => word_bit31 h (assemble_bit31 _ _ _ _ _ _), fun _ => rfl⟩
theorem ld8 (afe : Code) (rd : Reg) (ea : Operand) : Statement (.ld8 afe rd ea) :=
  ⟨fun _ h => word_bit31 h (encodeTwo_bit31 _ _ _ _), typeE_afe⟩
theorem ld16 (afe : Code) (rd : Reg) (ea : Operand) : Statement (.ld16 afe rd ea) :=
  ⟨fun _ h => word_bit31 h (encodeTwo_bit31 _ _ _ _), typeE_afe⟩
theorem ld32 (afe : Code) (rd : Reg) (ea : Operand) : Statement (.ld32 afe rd ea) :=
  ⟨fun _ h => word_bit31 h (encodeTwo_bit31 _ _ _ _), typeE_afe⟩
theorem st8 (afe : Code) (rd : Reg) (ea : Operand) : Statement (.st8 afe rd ea) :=
  ⟨fun _ h => word_bit31 h (encodeTwo_bit31 _ _ _ _), typeE_afe⟩
theorem st16 (afe : Code) (rd : Reg) (ea : Operand) : Statement (.st16 afe rd ea) :=
  ⟨fun _ h => word_bit31 h (encodeTwo_bit31 _ _ _ _), typeE_afe⟩
theorem st32 (afe : Code) (rd : Reg) (ea : Operand) : Statement (.st32 afe rd ea) :=
  ⟨fun _ h => word_bit31 h (encodeTwo_bit31 _ _ _ _), typeE_afe⟩
theorem push (afe : Code) (rd : Reg) : Statement (.push afe rd) :=
  ⟨fun _ h => word_bit31 h (assemble_bit31 _ _ _ _ _ _), typeE_afe⟩
theorem ppush : Statement (.ppush) :=
  ⟨fun _ h => word_bit31 h (assemble_bit31 _ _ _ _ _ _), fun _ => rfl⟩
theorem pop (afe : Code) (rd : Reg) : Statement (.pop afe rd) :=
  ⟨fun _ h => word_bit31 h (assemble_bit31 _ _ _ _ _ _), typeE_afe⟩
theorem branch (cc : Cond) (target : Operand) : Statement (.branch cc target) :=
  ⟨fun _ h => word_bit31 h (by cases target <;> exact assemble_bit31 _ _ _ _ _ _), fun _ => rfl⟩
theorem ib : Statement (.ib) :=
  ⟨fun _ h => word_bit31 h (assemble_bit31 _ _ _ _ _ _), fun _ => rfl⟩
theorem srspr (afe : Code) (rd : Reg) : Statement (.srspr afe rd) :=
  ⟨fun _ h => word_bit31 h (assemble_bit31 _ _ _ _ _ _), typeE_afe⟩
theorem srspw (afe : Code) (rs : Reg) : Statement (.srspw afe rs) :=
  ⟨fun _ h => word_bit31 h (assemble_bit31 _ _ _ _ _ _), typeE_afe⟩
theorem srieiw (afe : Code) (v : MaskOperand) : Statement (.srieiw afe v) :=
  ⟨fun _ h => word_bit31 h (by cases v <;> exact assemble_bit31 _ _ _ _ _ _), typeE_afe⟩
theorem sridtw (afe : Code) (rs : Reg) : Statement (.sridtw afe rs) :=
  ⟨fun _ h => word_bit31 h (assemble_bit31 _ _ _ _ _ _), typeE_afe⟩
theorem movepc (afe : Code) (rd : Reg) (off : Operand) : Statement (.movepc afe rd off) :=
  ⟨fun _ h => word_bit31 h (encodeTwo_bit31 _ _ _ _), typeE_afe⟩
theorem swi (afe : Code) (rd : Reg) (n : Operand) : Statement (.swi afe rd n) := by
  refine ⟨fun _ h => ?_, nofun⟩
  cases n with
  | reg rs => cases h
  | imm v => exact word_bit31 h (encodeTwo_bit31 _ _ _ _)
theorem idts : Statement (.idts) :=
  ⟨fun _ h => word_bit31 h (assemble_bit31 _ _ _ _ _ _), fun _ => rfl⟩
theorem clw (rd : Dest) : Statement (.clw rd) :=
  ⟨nofun, typeE_afe⟩
theorem srRegR (reg : ReadReg) (rd : Dest) : Statement (.srRegR reg rd) :=
  ⟨nofun, fun h => typeE_afe ((Bool.and_eq_true _ _ ▸ h :).1)⟩
theorem srRegW (reg : WriteReg) (rs : Reg) : Statement (.srRegW reg rs) :=
  ⟨nofun, fun _ => rfl⟩
theorem frcrCopyOut : Statement (.frcrCopyOut) :=
  ⟨nofun, fun _ => rfl⟩
theorem frcrCopyIn : Statement (.frcrCopyIn) :=
  ⟨nofun, fun _ => rfl⟩
theorem tlbFlush : Statement (.tlbFlush) :=
  ⟨nofun, fun _ => rfl⟩
theorem sync : Statement (.sync) :=
  ⟨nofun, fun _ => rfl⟩

end Sys2Proof.Laws.F
end

