-- ==== Sys2Proof/Tests/Slice0.lean ====
section
/-! SUPPORT. Tests: well-formedness, decoding of written-out words, one step per instruction, and for each statement with
hypotheses a state that meets them. Expected results are from spec/95_test_vectors.md, whose section a comment names, or are
worked out by hand from the rule named. -/

namespace Sys2Proof.Tests

open Sys2Proof Sys2Proof.Machine

/-! ### Helpers -/

/-- The next state of an outcome, if it is one. -/
def next? : Answer → Option State
  | .next t => some t
  | _ => none

/-- Why an outcome stops, if it does. -/
def stop? : Answer → Option (Fault ⊕ Refusal)
  | .next _ => none
  | .fault f => some (.inl f)
  | .refused r => some (.inr r)

/-- A memory that holds big-endian words at addresses. -/
def words (l : List (Nat × Word)) : Memory := l.foldl (fun m w => m.writeBE w.1 4 w.2) []

/-- The state after reset with two registers set. -/
def two (r : Reg) (a : Word) (q : Reg) (b : Word) : State := (State.reset.setReg q b).setReg r a

/-- The destination and the flags after an instruction on that state. -/
def result (i : Instr) (s : State) (r : Reg) : Option (Word × Flags) := (next? (exec i s)).map fun t => (t.reg r, t.flagr)

/-- The eight bytes that 95_test_vectors.md 2.5 starts from, and r2 holding an address. -/
def eight (a v : Word) : State :=
  { two 1 v 2 a with mem := words [(0x1000, 0x12345678), (0x1004, 0x9ABCDEF0)] }

/-- The two words at 1000 after an instruction on that state. -/
def eightAfter (i : Instr) (s : State) : Option (Word × Word) :=
  (next? (exec i s)).map fun t => (t.mem.readBE 0x1000 4, t.mem.readBE 0x1004 4)

/-- Flag words of 2048 entries, valid and enabled where listed, else 0. -/
def table (ns : List Nat) : List Word := (List.range 2048).map fun n => if ns.contains n then 3#32 else 0#32

/-- The common start of 95_test_vectors.md 2.12. -/
def common : State :=
  { State.reset with
    idtr := 0x4000, idtc := table [36, 40, 41, 42, 43, 64], pdtr := 0x20000, tidr := 0x40001, fi0r := 0xAAAAAAAA,
    fi1r := 0xBBBBBBBB,
    mem := words [(0x4120, 0x3000), (0x4140, 0x3100), (0x4148, 0x3200), (0x4150, 0x3300), (0x4158, 0x3400), (0x4200, 0x3500)] }

/-- The start of 95_test_vectors.md 2.13, with the second PTE, the PSR and r2 as given. -/
def paged (e2 psr va : Word) : State :=
  { two 1 0xA1B2C3D4 2 va with
    psr := psr, kpdtr := 0x10000, pdtr := 0x10000,
    mem := words [(0x10004, 0x00011039), (0x1100C, e2)] }

/-- The interrupt that a translation raises: its number and what it records. -/
def raised : Res Word → Option (Nat × Option Word × Option Word)
  | .raise c _ => some (c.number, c.fi0, c.fi1)
  | _ => none

/-- The physical address that a translation gives, and two table words after it. -/
def landed : Res Word → Option (Word × Word × Word)
  | .ok pa s => some (pa, s.mem.readBE 0x10004 4, s.mem.readBE 0x1100C 4)
  | _ => none

/-! ### Well-formedness: each check refuses an ill-formed term -/

theorem test_wf_register : (Instr.add 0 1 (.reg 2)).wf = true := by decide
theorem test_wf_imm11_least : (Instr.cmp 0 1 (.imm 0xFFFFFC00)).wf = true := by decide
theorem test_wf_imm11_greatest : (Instr.add 0 1 (.imm 1023)).wf = true := by decide
theorem test_wf_imm11_above : (Instr.add 0 1 (.imm 1024)).wf = false := by decide
theorem test_wf_imm11_below : (Instr.ld8 0 1 (.imm 0xFFFFFBFF)).wf = false := by decide
theorem test_wf_mask_immediate : (Instr.srieiw 0 (.imm 0 1024)).wf = false := by decide
theorem test_wf_swi_number : (Instr.swi 0 0 (.imm 1024)).wf = false := by decide
theorem test_wf_movepc_offset : (Instr.movepc 0 31 (.imm 0x1000)).wf = false := by decide
theorem test_wf_jump_unaligned : (Instr.branch .al (.imm 0x42)).wf = false := by decide
theorem test_wf_jump_above : (Instr.branch .al (.imm 0x40000)).wf = false := by decide
theorem test_wf_jump_greatest : (Instr.branch .al (.imm 0x3FFFC)).wf = true := by decide

/-! ### Decoding: words written out in 95_test_vectors.md 2.15 -/

theorem test_decode_arithmetic :
    [0x00000064#32, 0x00100021#32, 0x0010FC3F#32, 0x00500003#32, 0x00400001#32, 0x00D00001#32, 0x00D00026#32, 0x08100001#32,
      0x08300001#32, 0x0CF00001#32].map decode =
    [.instr (.add 0 3 (.reg 4)), .instr (.add 0 1 (.imm 1)), .instr (.add 0 1 (.imm 0xFFFFFFFF)), .instr (.mul 0 0 (.imm 3)),
      .instr (.mul 0 0 (.reg 1)), .instr (.cmp 0 0 (.imm 1)), .instr (.cmp 0 1 (.imm 6)), .instr (.shl 0 0 (.imm 1)),
      .instr (.shr 0 0 (.imm 1)), .instr (.test 0 0 (.imm 1))] := by decide
theorem test_decode_immediate_loads :
    [0x0D4468E0#32, 0x0EC00025#32, 0x0ECFFC3F#32, 0x0EE000E1#32, 0x0EFFFCFF#32].map decode =
    [.instr (.wl16 7 0x2340), .instr (.lil 1 5), .instr (.lil 1 0x7FFF), .instr (.lih 7 1), .instr (.lih 7 0xFFFF)] := by
  decide
theorem test_decode_memory :
    [0x10000022#32, 0x10200022#32, 0x10400000#32, 0x10600022#32, 0x10800022#32, 0x10A00002#32].map decode =
    [.instr (.ld8 0 1 (.reg 2)), .instr (.ld16 0 1 (.reg 2)), .instr (.ld32 0 0 (.reg 0)), .instr (.st8 0 1 (.reg 2)),
      .instr (.st16 0 1 (.reg 2)), .instr (.st32 0 0 (.reg 2))] := by decide
theorem test_decode_stack :
    [0x11000000#32, 0x12000060#32, 0x11200000#32].map decode =
    [.instr (.push 0 0), .instr (.pop 0 3), .instr .ppush] := by decide
theorem test_decode_control :
    [0x1440001F#32, 0x14420007#32, 0x145C0010#32, 0x14600000#32, 0x207003E8#32].map decode =
    [.instr (.branch .al (.reg 31)), .instr (.branch .neq (.reg 7)), .instr (.branch .seo (.imm 0x40)), .instr .ib,
      .instr (.movepc 0 31 (.imm 8))] := by decide
theorem test_decode_system :
    [0x180003C0#32, 0x1C0003C0#32, 0x1CB00001#32, 0x1CB00000#32, 0x1E000020#32, 0x24100800#32, 0x24100C1F#32,
      0x24400000#32].map decode =
    [.instr (.srspr 0 30), .instr (.srspw 0 30), .instr (.srieiw 0 (.imm 0 1)), .instr (.srieiw 0 (.imm 0 0)),
      .instr (.sridtw 0 1), .instr (.swi 0 0 (.imm 64)), .instr (.swi 0 0 (.imm 127)), .instr .idts] := by decide
/-- The register form of `srieiw` and an AFE code, laid out by hand from R122. -/
theorem test_decode_by_hand :
    [0x1CA000A0#32, 0x10450022#32].map decode = [.instr (.srieiw 0 (.reg 5)), .instr (.ld32 5 1 (.reg 2))] := by decide
theorem test_decode_rejects :
    [0x80000000#32, 0xFFFFFFFF#32, 0x7FE00000#32, 0x00000400#32, 0x11000001#32].map decode =
    [.reject .bit31, .reject .bit31, .reject .opcode, .reject .reservedBits, .reject .reservedBits] := by decide
/-- More reserved bits: `ppush` with a code, `swi` without its immediate flag, a register branch with bits 15:10 (R122). -/
theorem test_decode_rejects_by_format :
    [0x11210000#32, 0x24000800#32, 0x1440041F#32, 0x144000FF#32].map decode =
    [.reject .reservedBits, .reject .reservedBits, .reject .reservedBits, .reject .reservedBits] := by decide
/-- Bytes in memory order, most significant first (R62, R63). -/
theorem test_decode_bytes : decodeBytes [0x00, 0x10, 0x00, 0x21] = .instr (.add 0 1 (.imm 1)) := by decide
theorem test_decode_short : decodeBytes [0x00, 0x10, 0x00] = .reject .tooShort := by decide
theorem test_decode_table_word : decodeTableWord 32 0x00100021 = some (.add 0 1 (.imm 1)) := by decide
theorem test_encode_words :
    [Instr.add 0 1 (.imm 0xFFFFFFFF), .wl16 7 0x2340, .branch .seo (.imm 0x40), .swi 0 0 (.imm 64), .sync].map encode =
    [some 0x0010FC3F, some 0x0D4468E0, some 0x145C0010, some 0x24100800, none] := by decide
/-- The seven instructions without a word run where the platform's `decode` lists one for them (R111, R123). -/
theorem test_platform_word :
    decodeFor { State.reset.cfg with words := [(0xFFFFFFFF, .sync)] } 0xFFFFFFFF = .instr .sync := by decide
theorem test_type_e_rejects :
    [0x24100800#32, 0x10450022#32, 0x10400022#32].map (decodeFor { State.reset.cfg with procType := .typeE }) =
    [.reject .notInTypeE, .reject .notInTypeE, .instr (.ld32 0 1 (.reg 2))] := by decide
/-- Names of condition codes in either letter case (R116). -/
theorem test_condition_names :
    [condOfName "ge", condOfName "UEO", condOfName "Neq", condOfName "xx"] =
    [some .seo, some .ueo, some .neq, none] := by decide +kernel

/-! ### Compare, condition codes, test: 2.1 to 2.3 -/

theorem test_cmp_overflow : result (.cmp 0 1 (.reg 2)) (two 1 0x80000000 2 1) 1 = some (0x80000000, 0b01100) := by decide
theorem test_cmp_borrow : result (.cmp 0 1 (.reg 2)) (two 1 0x7FFFFFFF 2 0xFFFFFFFF) 1 = some (0x7FFFFFFF, 0b11010) := by
  decide
/-- The row FLAGR = 0 1 0 0 0 (OF alone) of 2.2, code by code. -/
theorem test_conditions :
    [Cond.al, .eq, .neq, .mi, .pl, .even, .odd, .ovf, .ueo, .uu, .uo, .ueu, .seo, .su, .so, .seu].map
      (fun c => condHolds c 0b01000) =
    [true, false, true, false, true, false, true, true, false, true, false, true, false, true, false, true] := by decide
theorem test_test_zero : result (.test 0 1 (.reg 2)) (two 1 6 2 1) 1 = some (6, 0b00011) := by decide
theorem test_test_sign : result (.test 0 1 (.reg 2)) (two 1 0x80000000 2 0xFFFFFFFF) 1 = some (0x80000000, 0b10010) := by
  decide

/-! ### Arithmetic: 2.4 -/

theorem test_add_wraps : result (.add 0 1 (.imm 1)) (two 1 0xFFFFFFFF 2 0) 1 = some (0, 0b00111) := by decide
theorem test_add_doubles : result (.add 0 1 (.reg 1)) (two 1 0x80000000 2 0) 1 = some (0, 0b01111) := by decide
theorem test_shl : result (.shl 0 1 (.imm 31)) (two 1 3 2 0) 1 = some (0x80000000, 0b10010) := by decide
theorem test_shr_fills_zero : result (.shr 0 1 (.imm 1)) (two 1 0x80000000 2 0) 1 = some (0x40000000, 0b00010) := by decide
/-- Refused (R137, D39), and where the platform lets it run, only its result is open (log 13). -/
theorem test_shift_beyond_width :
    stop? (exec (.shl 0 1 (.imm 32)) State.reset) = some (.inr .shiftAmount) ∧
    (next? (exec (.shl 0 1 (.imm 32)) { State.reset with cfg := { State.reset.cfg with shiftBeyond := .free } })).map
      (fun t => (t.pcr, t.draws)) = some (4, 1) := by decide
theorem test_mul_low_half : result (.mul 0 1 (.reg 2)) (two 1 0x10000 2 0x10000) 1 = some (0, 0b00011) := by decide
theorem test_mul_sign : result (.mul 0 1 (.reg 2)) (two 1 0xFFFFFFFF 2 2) 1 = some (0xFFFFFFFE, 0b10010) := by decide
theorem test_clw : result (.clw ⟨1, 0⟩) (two 1 0xDEADBEEF 2 0) 1 = some (0, 0) := by decide

/-! ### Loads and stores: 2.5, 2.6 -/

theorem test_ld8 : result (.ld8 0 1 (.reg 2)) (eight 0x1006 0) 1 = some (0xDE, 0) := by decide
theorem test_ld16 : result (.ld16 0 1 (.reg 2)) (eight 0x1004 0) 1 = some (0x9ABC, 0) := by decide
theorem test_ld32_same_register : result (.ld32 0 2 (.reg 2)) (eight 0x1000 0) 2 = some (0x12345678, 0) := by decide
theorem test_st8 : eightAfter (.st8 0 1 (.reg 2)) (eight 0x1001 0xA1B2C3D4) = some (0x12D45678, 0x9ABCDEF0) := by decide
theorem test_st16 : eightAfter (.st16 0 1 (.reg 2)) (eight 0x1004 0xA1B2C3D4) = some (0x12345678, 0xC3D4DEF0) := by decide
theorem test_st32 : eightAfter (.st32 0 1 (.reg 2)) (eight 0x1000 0xA1B2C3D4) = some (0xA1B2C3D4, 0x9ABCDEF0) := by decide
theorem test_ld32_misaligned : stop? (exec (.ld32 0 1 (.reg 2)) (eight 0x1002 0)) = some (.inl .alignmentViolation) := by
  decide
theorem test_st8_to_io : stop? (exec (.st8 0 1 (.reg 2)) (eight 0xFF000000 0)) = some (.inl .alignmentViolation) := by decide
/-- The second load of example 1.3: `#sext8-32` on the word 123456F0, with 5 as its code. -/
theorem test_sext8 :
    result (.ld32 5 1 (.reg 2))
      { two 1 0 2 0x2004 with
        cfg := { State.reset.cfg with sext8Code := some 5 }, mem := words [(0x2004, 0x123456F0)] } 1 =
    some (0xFFFFFFF0, 0) := by decide

/-! ### Stack: 2.7 -/

theorem test_push_wraps : (next? (exec (.push 0 1) (two 1 7 2 0))).map (fun t => (t.spr, t.mem.readBE 0 4)) =
    some (0xFFFFFFFC, 7) := by decide
theorem test_push_full_descending :
    (next? (exec (.push 0 1) { two 1 7 2 0 with cfg := { State.reset.cfg with stack := .fullDescending }, spr := 0x8000 })).map
      (fun t => (t.spr, t.mem.readBE 0x7FFC 4)) = some (0x7FFC, 7) := by decide
theorem test_ppush :
    (next? (exec .ppush { State.reset with pcr := 0x100, spr := 0x8000 })).map (fun t => (t.spr, t.mem.readBE 0x8000 4)) =
    some (0x7FFC, 0x108) := by decide
theorem test_pop :
    (next? (exec (.pop 0 2) { State.reset with spr := 0x7FF8, mem := words [(0x7FFC, 9)] })).map
      (fun t => (t.spr, t.reg 2)) = some (0x7FFC, 9) := by decide
theorem test_pop_misaligned : stop? (exec (.pop 0 2) { State.reset with spr := 0x7FFE }) =
    some (.inl .alignmentViolation) := by decide

/-! ### Immediate loads, `movepc`, `b`, `ib`: 2.8, 2.9, 2.12 (f) -/

theorem test_lil_sign : result (.lil 1 0x8000) State.reset 1 = some (0xFFFF8000, 0) := by decide
theorem test_lil_zero : result (.lil 1 0x8000) { State.reset with cfg := { State.reset.cfg with lilExt := .zero } } 1 =
    some (0x8000, 0) := by decide
theorem test_lih : result (.lih 7 1) (two 7 0xABCD 2 0) 7 = some (0x10000, 0) := by decide
theorem test_wl16 : result (.wl16 7 0xFFFF) (two 7 0x12345678 2 0) 7 = some (0x1234FFFF, 0) := by decide
theorem test_movepc_wraps : result (.movepc 0 31 (.imm 8)) { State.reset with pcr := 0xFFFFFFFC } 31 = some (4, 0) := by
  decide
theorem test_branch_taken :
    (next? (exec (.branch .su (.reg 7)) { two 7 0x400 2 0 with pcr := 0x200, flagr := 0b10110 })).map
      (fun t => (t.pcr, t.flagr)) = some (0x400, 0) := by decide
theorem test_branch_not_taken :
    (next? (exec (.branch .uu (.reg 7)) { two 7 0x400 2 0 with pcr := 0x200, flagr := 0b10110 })).map
      (fun t => (t.pcr, t.flagr)) = some (0x204, 0) := by decide
theorem test_ib :
    (next? (exec .ib { State.reset with ppsr := 0x64, ppcr := 0x4000, pflagr := 0b00110, ppdtr := 0x30000, ptidr := 0x80002 })).map
      (fun t => [t.psr, t.pcr, t.flagr.zeroExtend 32, t.pdtr, t.tidr]) = some [0x64, 0x4000, 6, 0x30000, 0x80002] := by
  decide
theorem test_ib_reserved : stop? (exec .ib { State.reset with ppsr := 0x20 }) = some (.inr .psrReserved) := by decide

/-! ### System registers: 2.10, 2.11 -/

theorem test_srspr : result (.srspr 0 30) { State.reset with spr := 0x7FF4 } 30 = some (0x7FF4, 0) := by decide
theorem test_srspw : (next? (exec (.srspw 0 1) (two 1 0x7FF2 2 0))).map (fun t => t.spr) = some 0x7FF2 := by decide
theorem test_srieiw_clears : (next? (exec (.srieiw 0 (.imm 0 0)) { State.reset with psr := 0x86 })).map (fun t => t.psr) =
    some 0x82 := by decide
theorem test_srieiw_sets : (next? (exec (.srieiw 0 (.reg 1)) (two 1 3 2 0))).map (fun t => t.psr) = some 4 := by decide
theorem test_sridtw : (next? (exec (.sridtw 0 1) (two 1 0x10000 2 0))).map (fun t => (t.idtr, t.idtc)) =
    some (0x10000, []) := by decide
theorem test_sridtw_alignment : stop? (exec (.sridtw 0 1) (two 1 0x10004 2 0)) = some (.inr .idtrAlignment) := by decide
theorem test_idts :
    (next? (exec .idts { common with idtc := [], mem := common.mem.writeBE 0x4204 4 0x30001 })).map
      (fun t => (t.idtc[63]?, t.idtc[64]?, t.idtc[65]?, t.idtc[2047]?, t.idtc[2048]?)) =
    some (some 0, some 0x30001, some 0, some 0, none) := by decide +kernel
theorem test_write_psr : (next? (exec (.srRegW .psr 1) (two 1 0xE6 2 0))).map (fun t => (t.psr, t.userMode)) =
    some (0xE6, true) := by decide
/-- A page size the platform lacks, and MMUPS 000 with paging off (R177, U4); `ib` restores the latter (R163's example). -/
theorem test_write_psr_refused :
    [0x102, 0x64, 0].map (fun v => stop? (exec (.srRegW .psr 1) (two 1 v 2 0))) =
      [some (.inr .psrReserved), some (.inr .psrReserved), some (.inr .psrReserved)] ∧
    (next? (exec .ib { State.reset with ppsr := 0x64 })).map (fun t => t.psr) = some 0x64 := by decide
theorem test_read_pflagr : result (.srRegR .pflagr ⟨1, 0⟩) { State.reset with pflagr := 0b10110 } 1 = some (0x16, 0) := by decide
/-- `#sext8-32` on the low byte F0 of FRCLR (R190, R193). -/
theorem test_read_sext8 :
    result (.srRegR .frclr ⟨1, 5⟩) { State.reset with cfg := { State.reset.cfg with sext8Code := some 5 }, frclr := 0x123456F0 } 1 =
    some (0xFFFFFFF0, 0) := by decide
theorem test_frcr_copy_out :
    (next? (exec .frcrCopyOut { State.reset with frcr := 0x1FFFFFFF0 })).map (fun t => (t.frchr, t.frclr)) =
    some (1, 0xFFFFFFF0) := by decide
theorem test_frcr_copy_in :
    (next? (exec .frcrCopyIn { State.reset with frchr := 0, frclr := 0x10 })).map (fun t => t.frcr) = some 0x10 := by decide
/-- PTEs 0001103B (G = 0) and 000110BB (G = 1): the flush keeps the second (R86). -/
theorem test_tlb_flush :
    (next? (exec .tlbFlush { State.reset with tlb := [⟨1, 0x10004, 0x0001103B⟩, ⟨1, 0x10008, 0x000110BB⟩] })).map
      (fun t => t.tlb) = some [⟨1, 0x10008, 0x000110BB⟩] := by decide
theorem test_sync : (next? (exec .sync { State.reset with flagr := 0b00110 })).map (fun t => (t.pcr, t.flagr)) =
    some (4, 0) := by decide
theorem test_privileged_in_user_mode :
    (next? (exec .idts { common with pcr := 0x200, psr := 0x64 })).map (fun t => [t.pcr, t.ppcr, t.fi0r, t.fi1r, t.psr]) =
    some [0x3200, 0x200, 0x200, 0xBBBBBBBB, 0] := by decide +kernel

/-! ### Interrupts: 2.12 -/

theorem test_swi :
    (next? (exec (.swi 0 0 (.imm 64)) { common with pcr := 0x200, psr := 0x64 })).map
      (fun t => [t.pcr, t.ppcr, t.ppsr, t.ppdtr, t.ptidr, t.psr, t.fi0r, t.fi1r]) =
    some [0x3500, 0x204, 0x64, 0x20000, 0x40001, 0, 0xAAAAAAAA, 0xBBBBBBBB] := by decide +kernel
/-- The register form (log 59), with 64 in r1. -/
theorem test_swi_register : (next? (exec (.swi 0 0 (.reg 1)) (common.setReg 1 64))).map (fun t => (t.pcr, t.ppcr)) =
    some (0x3500, 4) := by decide +kernel
theorem test_swi_invalid_vector :
    (next? (exec (.swi 0 0 (.imm 65)) { common with pcr := 0x200, psr := 0x64 })).map
      (fun t => [t.pcr, t.ppcr, t.ppsr, t.psr, t.fi0r, t.fi1r]) = some [0x3400, 0x204, 0x64, 0, 0x41, 0x41] := by
  decide +kernel
theorem test_hardware_interrupt :
    (next? (step { common with pcr := 0x120, psr := 4, flagr := 0b00110, pending := [36] })).map
      (fun t => ([t.pcr, t.ppcr, t.ppsr, t.fi0r, t.fi1r, t.psr], t.pflagr, t.flagr, t.pending)) =
    some ([0x3000, 0x120, 4, 0, 0xBBBBBBBB, 0], 0b00110, 0, []) := by decide +kernel
theorem test_invalid_instruction :
    (next? (step { common with pcr := 0x240, mem := common.mem.writeBE 0x240 4 0xFFFFFFFF })).map
      (fun t => [t.pcr, t.ppcr, t.fi0r, t.fi1r]) = some [0x3300, 0x240, 0x240, 0x240] := by decide +kernel
theorem test_masked_entry : stop? (exec (.swi 0 0 (.imm 64)) { common with idtc := (table []).set 64 1 }) =
    some (.inl .doubleFault) := by decide +kernel
theorem test_swi_before_idts : stop? (exec (.swi 0 0 (.imm 64)) State.reset) = some (.inl .doubleFault) := by decide

/-! ### Translation: 2.13 -/

theorem test_translate_read : landed ((paged 0x00055039 0x82 0).translate 0x00403ABC .read) =
    some (0x00055ABC, 0x0001103B, 0x0005503B) := by decide
theorem test_translate_write : landed ((paged 0x00055039 0x82 0).translate 0x00403ABC .write) =
    some (0x00055ABC, 0x0001103B, 0x0005503F) := by decide
theorem test_page_fault_kernel_fetch : raised ((paged 0x00055038 0x82 0).translate 0x00403000 .fetch) =
    some (40, some 0x00403000, some 9) := by decide
theorem test_page_fault_user_write : raised ((paged 0x00055038 0xE2 0).translate 0x00403ABC .write) =
    some (40, some 0x00403ABC, some 0xE) := by decide
theorem test_privilege_error_user_write : raised ((paged 0x00055029 0xE2 0).translate 0x00403ABC .write) =
    some (41, some 0x00403ABC, none) := by decide
theorem test_privilege_error_no_execute : raised ((paged 0x00055031 0x82 0).translate 0x00403000 .fetch) =
    some (41, some 0x00403000, none) := by decide
theorem test_user_reads_pp10 : landed ((paged 0x00055029 0xE2 0).translate 0x00403ABC .read) =
    some (0x00055ABC, 0x0001103B, 0x0005502B) := by decide
theorem test_extended_page :
    landed ({ paged 0 0x82 0 with mem := words [(0x10004, 0x00800139)] }.translate 0x00412345 .read) =
    some (0x00812345, 0x0080013B, 0) := by decide

/-- A page read under ASID 1, then written under ASID 2, may be used under ASID 1 again: the hardware keeps the TLB in
step (R84). The same PTE changed by the program is refused (R98, D32). -/
def afterTwoAsids : State :=
  let first := (paged 0x00055039 0x82 0).setReg 2 0x00403ABC
  let second := (next? (exec (.ld32 0 1 (.reg 2)) { first with tidr := 0x00040000 })).getD first
  (next? (exec (.st32 0 1 (.reg 2)) { second with tidr := 0x00080000 })).getD first
theorem test_tlb_after_dirty :
    landed ({ afterTwoAsids with tidr := 0x00040000 }.translate 0x00403ABC .read) =
      some (0x00055ABC, 0x0001103B, 0x0005503F) := by decide +kernel
theorem test_tlb_after_program_change :
    (match { afterTwoAsids with mem := afterTwoAsids.mem.writeBE 0x1100C 4 0x00066039 }.translate 0x00403ABC .read with
      | .refuse r => some r
      | _ => none) = some .staleTranslation := by decide +kernel

/-! ### The task structure table (R252, R253, R255) and the interface -/

/-- Queue entry 80000005: valid, not waiting, task 5; TASK_INF E0000000: valid, priority 3; the word at offset 84 is PCR. -/
theorem test_task_table :
    (queueV 0x80000005, queueE 0x80000005, queueTid 0x80000005, taskV 0xE0000000, taskPriority 0xE0000000) =
      (true, false, 5, true, 3) ∧
    { State.reset with mem := words [(0x2484, 0x100)] }.taskWord 0x2400 .pcr = 0x100 ∧
    TaskField.offset (.gr 31) = 0x80 := by decide
/-- The table at TISR: queue entry 0 at its first byte, task structure 0 at 400; the ends of its two parts (R250, R251). -/
theorem test_task_table_place :
    { State.reset with tisr := 0x2000, mem := words [(0x2000, 0x80000005), (0x2484, 0x100)] }.queueEntry0 = 0x80000005 ∧
    { State.reset with tisr := 0x2000, mem := words [(0x2000, 0x80000005), (0x2484, 0x100)] }.task0Word .pcr = 0x100 ∧
    [0, 0x3FF, 0x400, 0x260190, 0x260191].map tstPart =
      [some .queue, some .queue, some .tasks, some .tasks, none] := by decide
/-- The fields of R24, R25 and R26, from a value written field by field. -/
theorem test_register_fields :
    (cpuidrPid 0x00000043, cpuidrPrev 0x00000043) = (1, 3) ∧
    (coreidrClkMan 0x00A20007, coreidrClkExp 0x00A20007, coreidrCoreId 0x00A20007) = (10, 2, 7) ∧
    (tidrAsid 0x00140009, tidrTid 0x00140009) = (5, 9) := by decide
/-- The step after reset with `lil r1, 5` placed where the fetch looks. -/
theorem test_placed_word_runs : (next? (step (State.reset.withFetchWord 32 0x0EC00025))).map (fun t => (t.reg 1, t.pcr)) =
    some (5, 4) := by decide +kernel

end Sys2Proof.Tests
end

