-- ==== Sys2Proof/Tests/Witness.lean ====
section
/-! SUPPORT. For each statement with hypotheses, a state and operands that meet all of them, clause by clause and at the ends
of the ranges the clauses name. -/

namespace Sys2Proof.Tests

open Sys2Proof Sys2Proof.Machine

/-! ### Helpers -/

/-- Code 0 has a meaning in every configuration. -/
theorem afe_none (c : Config) : afeFunction c 0#4 = some fun v => v := rfl

/-- An outcome that is a next state with a property. -/
theorem next_with {o : Answer} {p : State → Bool} (h : (next? o).any p = true) : ∃ t, o = .next t ∧ p t = true := by
  cases o with
  | next t => exact ⟨t, rfl, h⟩
  | fault f => cases h
  | refused r => cases h

/-- An outcome that is a next state. -/
theorem next_of {o : Answer} (h : (next? o).isSome = true) : ∃ t, o = .next t := by
  cases o with
  | next t => exact ⟨t, rfl⟩
  | fault f => cases h
  | refused r => cases h

/-- A state of Type-E. -/
def stateE : State := { State.reset with cfg := { State.reset.cfg with procType := .typeE } }

/-- `common` with its vector 64 through 43, as 95_test_vectors.md 2.12 has it. -/
theorem vector_common_64 : common.Vector 64 0x3500 := ⟨⟨3, by decide +kernel, rfl, rfl⟩, by decide +kernel⟩
theorem vector_common_41 : common.Vector 41 0x3200 := ⟨⟨3, by decide +kernel, rfl, rfl⟩, by decide +kernel⟩
theorem vector_common_43 : common.Vector 43 0x3400 := ⟨⟨3, by decide +kernel, rfl, rfl⟩, by decide +kernel⟩

/-- A state with the table at 0 that is enabled for 4, 37, 42, 64 and 127 and whose handler words are 0. -/
def ends : State := { State.reset with idtc := table [4, 37, 42, 64, 127] }
theorem vector_ends_4 : ends.Vector 4 0 := ⟨⟨3, by decide +kernel, rfl, rfl⟩, by decide +kernel⟩
theorem vector_ends_37 : ends.Vector 37 0 := ⟨⟨3, by decide +kernel, rfl, rfl⟩, by decide +kernel⟩
theorem vector_ends_42 : ends.Vector 42 0 := ⟨⟨3, by decide +kernel, rfl, rfl⟩, by decide +kernel⟩
theorem vector_ends_64 : ends.Vector 64 0 := ⟨⟨3, by decide +kernel, rfl, rfl⟩, by decide +kernel⟩
theorem vector_ends_127 : ends.Vector 127 0 := ⟨⟨3, by decide +kernel, rfl, rfl⟩, by decide +kernel⟩

/-- A good state with interrupts on, requests 4 and 37 pending, and vector 4 masked. -/
def waiting : State := { State.reset with psr := 4, idtc := (table [37]).set 4 1, pending := [4, 37] }
theorem good_waiting : waiting.Good :=
  ⟨by decide, by decide, .inr (by decide +kernel), by decide, by decide⟩
theorem vector_waiting : waiting.Vector 37 0 := ⟨⟨3, by decide +kernel, rfl, rfl⟩, by decide +kernel⟩

/-- The two top words of memory. -/
theorem plain_top (w : Width) (h : w = .word ∨ w = .byte) :
    State.reset.PlainAccess (if w = .word then 0xFEFFFFFC#32 else 0xFEFFFFFF#32) w := by
  rcases h with rfl | rfl <;> exact ⟨.inr (by decide), by decide, by decide, by decide⟩
theorem plain_zero (w : Width) : State.reset.PlainAccess 0#32 w := by
  cases w <;> exact ⟨.inr (by decide), by decide, by decide, by decide⟩

/-- With paging on, the page of 95_test_vectors.md 2.13. -/
def mapped : State := paged 0x00055039 0x82 0x00403ABC
def mappedAfter (acc : Access) : State :=
  match mapped.translate 0x00403ABC acc with
  | .ok _ s => s
  | _ => mapped
theorem translated_mapped (acc : Access) (h : acc = .read ∨ acc = .write) :
    mapped.Translated 0x00403ABC acc .word 0x00055ABC (mappedAfter acc) := by
  rcases h with rfl | rfl <;> exact ⟨by decide, rfl, by decide, by decide⟩

/-- The same page with an invalid second PTE. -/
def unmapped : State := paged 0x00055038 0x82 0x00403ABC
def afterFault (acc : Access) (va : Word) : State :=
  match unmapped.translate va acc with
  | .raise _ s => s
  | _ => unmapped

/-! ### Encoding and the step -/

theorem witness_DecodeOfEncode :
    (Instr.add 0 1 (.imm 0xFFFFFC00)).wf = true ∧ (∃ w, encode (.add 0 1 (.imm 0xFFFFFC00)) = some w) ∧
    (Instr.branch .seu (.imm 0x3FFFC)).wf = true ∧ (∃ w, encode (.branch .seu (.imm 0x3FFFC)) = some w) ∧
    isAbstract .ib = false := ⟨by decide, ⟨_, rfl⟩, by decide, ⟨_, rfl⟩, rfl⟩
theorem witness_EncodeOfDecode : decode 0#32 = .instr (.add 0 0 (.reg 0)) ∧ decode 0x2410FFFF#32 = .instr (.swi 0 31 (.imm 0xFFFFFFFF)) := by
  decide
theorem witness_PlatformDecode :
    lookupWord 5 [(5#32, Instr.clw ⟨1, 0⟩)] = some (.clw ⟨1, 0⟩) ∧ (Instr.clw ⟨1, 0⟩).inTypeE = true ∧
    Platform.config.procType = .typeS ∧ lookupWord 5 Platform.config.words = none ∧ Platform.config.provisional = true ∧
    decode 0#32 = .instr (.add 0 0 (.reg 0)) ∧ (Instr.add 0 0 (.reg 0)).inTypeE = true ∧
    decode 0x80000000#32 = .reject .bit31 ∧ { Platform.config with provisional := false }.provisional = false ∧
    stateE.cfg.procType = .typeE ∧ decodeFor stateE.cfg 0#32 = .instr (.add 0 0 (.reg 0)) := by decide
/-- The word 0 at PCR, with no request, and with a request that arrives while interrupts are masked. -/
theorem witness_StepRunsDecodedInstruction :
    State.reset.PlainFetch 0#32 ∧ State.reset.requestsNow = [] ∧ decodeFor State.reset.cfg 0#32 = .instr (.add 0 0 (.reg 0)) ∧
    { State.reset with arrivals := [[37]] }.PlainFetch 0#32 :=
  ⟨⟨⟨by decide, by decide⟩, .inr (by decide), by decide, by decide, by decide, fun _ _ h => (nomatch h), by decide⟩, rfl, by decide,
   ⟨⟨by decide, by decide⟩, .inr (by decide), by decide, by decide, by decide, fun _ _ h => (nomatch h), by decide⟩⟩
/-- What arrives at a boundary: two numbers of each unit, a unit in I0, a unit without a number, Type-E, and numbers on
either side of 4 to 37. -/
theorem witness_StepRunsDecodedInstruction_arrivals :
    ([36, 35, 4, 37].find? (fun n => unitOfNumber n == .gci) = some 35 ∧
      [36, 35, 4, 37].find? (fun n => unitOfNumber n == unitOfNumber 36) = some 36 ∧
      { State.reset with arrivals := [[36, 35, 4, 37]] }.atBoundary.pending = [35, 36]) ∧
    ({ State.reset with dps := .i0 36, arrivals := [[37]] }.unitState (unitOfNumber 37) = .i0 36 ∧
      { State.reset with dps := .i0 36, arrivals := [[37]] }.atBoundary.pending = []) ∧
    (State.reset.unitState .gci = .s0 ∧ ∀ n ∈ [36, 37], unitOfNumber n ≠ .gci) ∧
    (stateE.isS = false ∧ { stateE with arrivals := [[5, 4]] }.atBoundary.pending = [4, 5]) ∧
    (∃ n ∈ [3], n < 4 ∨ 37 < n) ∧ (∃ n ∈ [37, 38], n < 4 ∨ 37 < n) := by decide
theorem witness_StepRunsTranslatedInstruction :
    (∃ (s : State) (pa : Word) (s1 : State) (i : Instr), s.Undisturbed ∧ s.atBoundary.Translated s.pcr .fetch .word pa s1 ∧
      (∀ k, k < 4 → pa.toNat + k ∉ s.storedTo) ∧ decodeFor s.cfg (s1.mem.readBE pa.toNat 4) = .instr i) ∧
    (∃ (s : State) (c : Cause) (s1 : State), s.Undisturbed ∧ s.pcr.toNat % 4 = 0 ∧ s.atBoundary.translate s.pcr .fetch = .raise c s1) :=
  ⟨⟨{ mapped with pcr := 0x00403000 }, 0x00055000, _, .add 0 0 (.reg 0), ⟨by decide, by decide⟩,
      ⟨by decide, rfl, by decide, by decide⟩, fun _ _ h => (nomatch h), by decide⟩,
   ⟨{ unmapped with pcr := 0x00403000 }, _, _, ⟨by decide, by decide⟩, by decide, rfl⟩⟩
theorem witness_StepTakesHardwareInterrupt :
    waiting.Good ∧ waiting.requestsNow.all hardwareNumber = true ∧ psrIm waiting.psr = true ∧ 37 ∈ waiting.atBoundary.pending ∧
    waiting.Vector 37 0 ∧
    (∀ m ∈ waiting.atBoundary.pending, m < 37 → ∃ f, waiting.idtc[m]? = some f ∧ f.getLsbD 0 = true ∧ f.getLsbD 1 = false) := by
  refine ⟨good_waiting, by decide, by decide, by decide, vector_waiting, ?_⟩
  intro m hm h
  have : m = 4 := by
    simp only [show waiting.atBoundary.pending = [4, 37] from rfl, List.mem_cons, List.not_mem_nil, or_false] at hm
    rcases hm with rfl | rfl
    · rfl
    · exact absurd h (by decide)
  subst this
  exact ⟨1, by decide +kernel, rfl, rfl⟩
theorem witness_MaskableOnlyWhileEnabled :
    psrIm State.reset.psr = false ∧ { State.reset with arrivals := [[4, 37]] }.requestsNow.all hardwareNumber = true := by decide
theorem witness_InvalidWordEnters42_translated :
    ∃ (s : State) (pa : Word) (s1 : State), s.Undisturbed ∧ s.atBoundary.Translated s.pcr .fetch .word pa s1 ∧
      (∀ k, k < 4 → pa.toNat + k ∉ s.storedTo) ∧ decodeFor s.cfg (s1.mem.readBE pa.toNat 4) = .reject .bit31 ∧ s.isS = true ∧
      s1.Vector 42 0x3300 :=
  ⟨{ mapped with pcr := 0x00403ABC, idtr := 0x4000, idtc := table [42],
                 mem := (mapped.mem.writeBE 0x00055ABC 4 0xFFFFFFFF).writeBE 0x4150 4 0x3300 }, 0x00055ABC, _,
    ⟨by decide, by decide⟩, ⟨by decide, rfl, by decide, by decide⟩, fun _ _ h => (nomatch h), by decide +kernel, rfl,
    ⟨⟨3, by decide +kernel, rfl, rfl⟩, by decide +kernel⟩⟩
/-- The compare before the branch, and the hypothesis that it completes. -/
theorem witness_ConditionCodes :
    (∃ u, exec (.cmp 0 1 (.imm 6)) State.reset = .next u) ∧ ∃ u, exec (.test 0 1 (.imm 6)) State.reset = .next u :=
  ⟨⟨_, rfl⟩, _, rfl⟩
theorem witness_InvalidWordEnters42 :
    (∃ s : State, s.PlainFetch 0xFFFFFFFF#32 ∧ decodeFor s.cfg 0xFFFFFFFF#32 = .reject .bit31 ∧ s.isS = true ∧
      s.Vector 42 0x3300) ∧
    (∃ s : State, s.PlainFetch 0xFFFFFFFF#32 ∧ decodeFor s.cfg 0xFFFFFFFF#32 = .reject .bit31 ∧ s.isS = false) :=
  ⟨⟨{ common with mem := common.mem.writeBE 0 4 0xFFFFFFFF },
      ⟨⟨by decide, by decide⟩, .inr (by decide), by decide, by decide, by decide, fun _ _ h => (nomatch h), by decide +kernel⟩,
      by decide, rfl, ⟨⟨3, by decide +kernel, rfl, rfl⟩, by decide +kernel⟩⟩,
   ⟨{ stateE with mem := words [(0, 0xFFFFFFFF)] },
      ⟨⟨by decide, by decide⟩, .inl rfl, by decide, by decide, by decide, fun _ _ h => (nomatch h), by decide +kernel⟩,
      by decide, rfl⟩⟩

/-! ### Taking an exception and returning -/

/-- Both ends of the hardware numbers, of the software numbers, and a number between. -/
theorem witness_EntrySavesContext :
    ends.Vector 4 0 ∧ ends.Vector 37 0 ∧ common.Vector 41 0x3200 ∧ ends.Vector 64 0 ∧ ends.Vector 127 0 :=
  ⟨vector_ends_4, vector_ends_37, vector_common_41, vector_ends_64, vector_ends_127⟩
theorem witness_PreviousRegistersCopied : common.isS = true ∧ ∃ t, common.enter ⟨64, none, none⟩ 4#32 = .next t :=
  ⟨rfl, next_of (by decide +kernel)⟩
theorem witness_InvalidVectorEnters43 :
    (65 : Nat) ≠ 43 ∧ common.idtc[65]? = some 0#32 ∧ (0#32).getLsbD 0 = false ∧ common.Vector 43 0x3400 ∧
    common.idtc[4]? = some 0#32 :=
  ⟨by decide, by decide +kernel, rfl, vector_common_43, by decide +kernel⟩
theorem witness_DoubleFaultEndsRun :
    State.reset.idtc = [] ∧
    (ends.idtc[43]? = some 0#32 ∧ (0#32).getLsbD 0 = false) ∧
    (ends.idtc[65]? = some 0#32 ∧ ends.idtc[43]? = some 0#32) ∧
    (waiting.idtc[4]? = some 1#32 ∧ (1#32).getLsbD 0 = true ∧ (1#32).getLsbD 1 = false) ∧
    (ends.idtc[64]? = some 3#32 ∧ (3#32).getLsbD 0 = true ∧ { ends with idtr := 0xFEFFFE00 }.physRead
      ({ ends with idtr := 0xFEFFFE00 }.hdlAddr 64) = none) := by decide +kernel
/-- Entry 43 standing in for an invalid entry: masked, with a handler word outside memory, and enterable. -/
theorem witness_DoubleFaultEndsRun_substitute :
    (ends.idtc[65]? = some 0#32 ∧ { ends with idtc := ends.idtc.set 43 1 }.idtc[43]? = some 1#32 ∧
      (1#32).getLsbD 0 = true ∧ (1#32).getLsbD 1 = false) ∧
    ({ common with idtr := 0xFEFFFF00 }.idtc[43]? = some 3#32 ∧
      { common with idtr := 0xFEFFFF00 }.physRead ({ common with idtr := 0xFEFFFF00 }.hdlAddr 43) = none) ∧
    ((∃ f, ends.idtc[65]? = some f ∧ f.getLsbD 0 = false) ∧ ∃ h, common.Vector 43 h) :=
  ⟨by decide +kernel, by decide +kernel, ⟨0, by decide +kernel, rfl⟩, _, vector_common_43⟩
theorem witness_EntryThenReturn :
    (∃ t, common.enter ⟨64, none, none⟩ 4#32 = .next t) ∧ psrLegal common.cfg common.psr = true :=
  ⟨next_of (by decide +kernel), by decide⟩

/-! ### Over all instructions -/

theorem witness_StepKeepsGood : State.reset.Good ∧ ∃ t, step State.reset = .next t :=
  ⟨⟨by decide, by decide, .inl rfl, by decide, by decide⟩, _, rfl⟩
theorem witness_StepKeepsParametersAndRom : ∃ t, step State.reset = .next t := ⟨_, rfl⟩

/-- A User Mode state whose next word is `add r0, r0`, and one whose next word is `swi 64`. -/
def user (w : Word) : State := { common with psr := 0x64, pcr := 0x200, mem := common.mem.writeBE 0x200 4 w }
theorem witness_UserModeLeftOnlyByEntry :
    (user 0x24100800).isS = true ∧ (user 0x24100800).userMode = true ∧
    ∃ t, step (user 0x24100800) = .next t ∧ (!t.userMode) = true :=
  ⟨rfl, rfl, next_with (p := fun t => !t.userMode) (by decide +kernel)⟩
theorem witness_UserModeKeepsControlState :
    (user 0).isS = true ∧ (user 0).userMode = true ∧ ∃ t, step (user 0) = .next t ∧ t.userMode = true :=
  ⟨rfl, rfl, next_with (p := State.userMode) (by decide +kernel)⟩
theorem witness_OnlyFlagInstructionsLeaveFlags :
    mayLeaveFlags .sync = false ∧ ∃ t, exec .sync State.reset = .next t := ⟨rfl, _, rfl⟩
theorem witness_MemoryChangedOnlyByStores :
    (isStore (.clw ⟨1, 0⟩) = false ∧ isLoad (.clw ⟨1, 0⟩) = false ∧ ∃ t, exec (.clw ⟨1, 0⟩) State.reset = .next t) ∧
    (isStore (.ld32 0 1 (.imm 4)) = false ∧ State.reset.pagingOff ∧ ∃ t, exec (.ld32 0 1 (.imm 4)) State.reset = .next t) :=
  ⟨⟨rfl, rfl, _, rfl⟩, rfl, .inr (by decide), _, rfl⟩
/-- Each register of the statement is changed by some instruction. -/
theorem witness_SpecialRegistersHaveTheirInstructions :
    let s := (State.reset.setReg 1 8)
    (next? (exec (.srspw 0 1) s)).map (fun t => t.spr) = some 8 ∧
    (next? (exec (.sridtw 0 1) s)).map (fun t => t.idtr) = some 8 ∧
    (next? (exec .idts s)).map (fun t => t.idtc.length) = some 2048 ∧
    (next? (exec .ib { s with ppdtr := 8, ptidr := 8 })).map (fun t => (t.pdtr, t.tidr)) = some (8, 8) ∧
    (next? (exec (.srRegW .kpdtr 1) s)).map (fun t => t.kpdtr) = some 8 ∧
    (next? (exec (.srRegW .tisr 1) s)).map (fun t => t.tisr) = some 8 ∧
    (next? (exec .frcrCopyIn { s with frclr := 8 })).map (fun t => t.frcr) = some 8 ∧
    (next? (exec (.srRegW .frclr 1) s)).map (fun t => t.frclr) = some 8 ∧
    (next? (exec (.srRegW .frchr 1) s)).map (fun t => t.frchr) = some 8 := by decide +kernel
theorem witness_OnlyTheDestinationRegisterChanges :
    (∃ t, exec (.clw ⟨1, 0⟩) State.reset = .next t) ∧ destOf (.clw ⟨1, 0⟩) ≠ some 2 := ⟨⟨_, rfl⟩, by decide⟩

/-! ### Compare, test, arithmetic, AFE -/

/-- The hypothesis of every statement about an instruction that carries an AFE code. -/
theorem witness_CmpResult : afeFunction State.reset.cfg 0#4 = some fun v => v := afe_none _
theorem witness_TestResult : afeFunction State.reset.cfg 0#4 = some fun v => v := afe_none _
theorem witness_AddResult : afeFunction State.reset.cfg 0#4 = some fun v => v := afe_none _
theorem witness_MulResult : afeFunction State.reset.cfg 0#4 = some fun v => v := afe_none _
theorem witness_MovepcResult : afeFunction State.reset.cfg 0#4 = some fun v => v := afe_none _
/-- 31 and 32, where the clauses meet, under both values of each parameter. -/
theorem witness_ShiftResult :
    (State.reset.operand (.imm 31)).toNat < 32 ∧ 32 ≤ (State.reset.operand (.imm 32)).toNat ∧
    (afeFunction State.reset.cfg 0#4 = some fun v => v) ∧ State.reset.cfg.shiftBeyond = .refuse ∧
    { State.reset.cfg with shiftBeyond := .free }.shiftBeyond = .free ∧ State.reset.cfg.arithFlags = .generate ∧
    { State.reset.cfg with arithFlags := .zero }.arithFlags = .zero := ⟨by decide, by decide, rfl, rfl, rfl, rfl, rfl⟩
theorem witness_ClearAndLoadImmediate :
    (afeFunction State.reset.cfg 0#4 = some fun v => v) ∧ State.reset.cfg.lilExt = .sign ∧
    { State.reset.cfg with lilExt := .zero }.lilExt = .zero := ⟨rfl, rfl, rfl⟩
theorem witness_AfeFunctions :
    { Platform.config with sext8Code := some 5#4 }.sext8Code = some 5#4 ∧ (5#4 ≠ 0#4) ∧ Platform.config.procType = .typeS ∧
    State.reset.isS = true ∧ afeOf (.add 5 1 (.reg 2)) ≠ 0#4 ∧ State.reset.cfg.sext8Code ≠ some (afeOf (.add 5 1 (.reg 2))) := by
  decide

/-! ### Memory -/

theorem witness_BigEndianMemory : (words [(0x1000, 0x12345678)]).wf = true := by decide
/-- A word at the top of memory, and at 0. -/
theorem witness_LoadPlain :
    afeFunction State.reset.cfg 0#4 = (some fun v => v) ∧
    State.reset.PlainAccess (State.reset.operand (.imm 0xFEFFFFFC)) .word ∧
    State.reset.PlainAccess (State.reset.operand (.reg 0)) .half :=
  ⟨rfl, plain_top .word (.inl rfl), plain_zero .half⟩
theorem witness_StorePlain :
    State.reset.mem.wf = true ∧ afeFunction State.reset.cfg 0#4 = (some fun v => v) ∧
    State.reset.PlainAccess (State.reset.operand (.imm 0xFEFFFFFF)) .byte :=
  ⟨by decide, rfl, plain_top .byte (.inr rfl)⟩
theorem witness_StoreThenLoad :
    State.reset.mem.wf = true ∧ State.reset.PlainAccess (State.reset.operand (.imm 0)) .word ∧
    ∃ t, exec (storeOf .word 0#4 1 (.imm 0)) State.reset = .next t ∧ t.operand (.imm 0) = State.reset.operand (.imm 0) :=
  ⟨by decide, plain_zero .word, _, rfl, rfl⟩
theorem witness_LoadTranslated :
    afeFunction mapped.cfg 0#4 = (some fun v => v) ∧
    mapped.Translated (mapped.operand (.imm 0x00403ABC)) .read .word 0x00055ABC (mappedAfter .read) :=
  ⟨rfl, translated_mapped .read (.inl rfl)⟩
theorem witness_StoreTranslated :
    mapped.mem.wf = true ∧ afeFunction mapped.cfg 0#4 = (some fun v => v) ∧
    mapped.Translated (mapped.operand (.imm 0x00403ABC)) .write .word 0x00055ABC (mappedAfter .write) :=
  ⟨by decide, rfl, translated_mapped .write (.inr rfl)⟩
theorem witness_ForbiddenAccessesStop :
    afeFunction State.reset.cfg 0#4 = (some fun v => v) ∧
    (State.reset.operand (.imm 2)).toNat % Width.bytes .word ≠ 0 ∧
    (State.reset.pagingOff ∧ State.reset.isIo (State.reset.operand (.imm 0xFF000000)) = true ∧ Width.half ≠ .word) ∧
    { State.reset with spr := 0x7FFE }.pushAddr.toNat % 4 ≠ 0 ∧ { State.reset with spr := 0x7FFE }.popAddr.toNat % 4 ≠ 0 ∧
    ({ State.reset with pcr := 0x102 }.Undisturbed ∧ { State.reset with pcr := 0x102 }.pcr.toNat % 4 ≠ 0) ∧
    (State.reset.isIo 0xFF000000 = true ∧ { State.reset with pcr := 0xFF000000 }.Undisturbed) ∧
    (stateE.pagingOff ∧ stateE.isIo 0xFF000000 = false ∧ stateE.ramTop < (0xFF000000#32).toNat + 4 ∧
      { stateE with pcr := 0xFF000000 }.Undisturbed) ∧
    (State.reset.isIo 0 = false ∧ (0#32).toNat + 4 ≤ State.reset.ramTop ∧ { State.reset with storedTo := [3] }.Undisturbed ∧
      ∃ k, k < 4 ∧ (0#32).toNat + k ∈ [3]) ∧
    (stateE.operand (.imm 0xFF000000)).toNat % 4 = 0 :=
  ⟨rfl, by decide, ⟨.inr (by decide), by decide, by decide⟩, by decide, by decide, ⟨⟨by decide, by decide⟩, by decide⟩,
    ⟨by decide, by decide, by decide⟩, ⟨.inl rfl, by decide, by decide, by decide, by decide⟩,
    ⟨by decide, by decide, ⟨by decide, by decide⟩, 3, by decide, by decide⟩, by decide⟩

/-- DPS holds the first four words of the I/O region and raised 36, whose cause register is its first word. -/
def device : State :=
  { State.reset with
    cfg := { State.reset.cfg with dpsRanges := [(0xFF000000, 0xFF00000F)], causeRegs := [(36, 0xFF000000)] }, dps := .i0 36 }
theorem witness_IoAccess :
    afeFunction device.cfg 0#4 = (some fun v => v) ∧ device.pagingOff ∧ (0xFF000000#32).toNat % 4 = 0 ∧
    device.isIo 0xFF000000 = true ∧ device.unitState (unitOfAddr device.cfg 0xFF000000) = .i0 36 ∧
    (36, 0xFF000000#32) ∈ device.cfg.causeRegs ∧
    device.unitState (unitOfAddr device.cfg 0xFF00000C) = .i0 36 ∧ (36, 0xFF00000C#32) ∉ device.cfg.causeRegs ∧
    device.unitState (unitOfAddr device.cfg 0xFF000010) = .s0 ∧ device.isIo 0xFFFFFFFC = true :=
  ⟨rfl, .inr (by decide), by decide, by decide, by decide, by decide, by decide, by decide, by decide, by decide⟩
/-- An access through the page tables that ends in the I/O region, and the stack in it. -/
def mappedIo : State := { paged 0xFF000039 0x82 0x00403ABC with spr := 0x00403AB8 }
def mappedIoAfter (acc : Access) : State :=
  match mappedIo.translate 0x00403ABC acc with
  | .ok _ s => s
  | _ => mappedIo
theorem witness_IoAccess_translated :
    mappedIo.IoTranslated (mappedIo.operand (.reg 2)) .read 0xFF000ABC (mappedIoAfter .read) ∧
    mappedIo.IoTranslated mappedIo.popAddr .read 0xFF000ABC (mappedIoAfter .read) ∧
    mappedIo.IoTranslated (mappedIo.operand (.reg 2)) .write 0xFF000ABC (mappedIoAfter .write) ∧
    { State.reset with spr := 0xFF000000 }.IoTranslated { State.reset with spr := 0xFF000000 }.pushAddr .write 0xFF000000
      { State.reset with spr := 0xFF000000 } ∧
    (mappedIoAfter .read).unitState (unitOfAddr mappedIo.cfg 0xFF000ABC) = .s0 :=
  ⟨⟨by decide, rfl, by decide⟩, ⟨by decide, rfl, by decide⟩, ⟨by decide, rfl, by decide⟩, ⟨by decide, rfl, by decide⟩,
    by decide⟩

/-- The mapped page beyond the end of memory. -/
def beyond : State := { mapped with cfg := { mapped.cfg with memSize := 0x50000 } }
/-- The state a translation that succeeds leaves. -/
def State.left (s : State) (va : Word) (acc : Access) : State :=
  match s.translate va acc with
  | .ok _ t => t
  | _ => s
/-- Translations that end in the I/O region, beyond the end of memory, and at a byte that was stored to. -/
theorem witness_ForbiddenAccessesStop_translated :
    (mappedIo.translate (mappedIo.operand (.imm 0x00403ABE)) .read = .ok 0xFF000ABE (State.left mappedIo 0x00403ABE .read) ∧
      (mappedIo.operand (.imm 0x00403ABE)).toNat % Width.bytes .half = 0 ∧ mappedIo.isIo 0xFF000ABE = true) ∧
    (mappedIo.translate (mappedIo.operand (.imm 0x00403ABF)) .write = .ok 0xFF000ABF (State.left mappedIo 0x00403ABF .write)) ∧
    (beyond.translate (beyond.operand (.imm 0x00403ABC)) .read = .ok 0x00055ABC (State.left beyond 0x00403ABC .read) ∧
      beyond.isIo 0x00055ABC = false ∧ beyond.ramTop < (0x00055ABC#32).toNat + Width.bytes .byte) ∧
    (∀ s, s = { beyond with spr := 0x00403ABC } →
      s.pushAddr.toNat % 4 = 0 ∧ s.translate s.pushAddr .write = .ok 0x00055ABC (State.left s 0x00403ABC .write) ∧
      s.popAddr.toNat % 4 = 0 ∧ s.translate s.popAddr .read = .ok 0x00055AC0 (State.left s 0x00403AC0 .read)) ∧
    (∀ s, s = { mappedIo with pcr := 0x00403ABC } → s.Undisturbed ∧ s.pcr.toNat % 4 = 0 ∧
      s.atBoundary.translate s.pcr .fetch = .ok 0xFF000ABC (State.left s.atBoundary s.pcr .fetch) ∧
      s.isIo 0xFF000ABC = true) ∧
    (∀ s, s = { beyond with pcr := 0x00403ABC } → s.Undisturbed ∧
      s.atBoundary.translate s.pcr .fetch = .ok 0x00055ABC (State.left s.atBoundary s.pcr .fetch)) ∧
    (∀ s, s = { mapped with pcr := 0x00403ABC, storedTo := [0x55ABF] } → s.Undisturbed ∧ s.isIo 0x00055ABC = false ∧
      s.atBoundary.translate s.pcr .fetch = .ok 0x00055ABC (State.left s.atBoundary s.pcr .fetch) ∧
      (0x00055ABC#32).toNat + 4 ≤ s.ramTop ∧ ∃ k, k < 4 ∧ (0x00055ABC#32).toNat + k ∈ s.storedTo) := by
  refine ⟨⟨rfl, by decide, by decide⟩, rfl, ⟨rfl, by decide, by decide⟩, ?_, ?_, ?_, ?_⟩ <;> rintro s rfl
  · exact ⟨by decide, rfl, by decide, rfl⟩
  · exact ⟨⟨by decide, by decide⟩, by decide, rfl, by decide⟩
  · exact ⟨⟨by decide, by decide⟩, rfl⟩
  · exact ⟨⟨by decide, by decide⟩, by decide, rfl, by decide, 3, by decide, by decide⟩

/-- The three stack disciplines. -/
def stacked (d : StackDiscipline) : State := { State.reset with cfg := { State.reset.cfg with stack := d }, spr := 0x8000 }
theorem witness_PushResult (d : StackDiscipline) :
    (stacked d).mem.wf = true ∧ afeFunction (stacked d).cfg 0#4 = (some fun v => v) ∧ (stacked d).cfg.stack = d ∧
    ∃ pa s1, (stacked d).Translated (stacked d).pushAddr .write .word pa s1 := by
  cases d <;> exact ⟨by decide, rfl, rfl, _, _, by decide, rfl, by decide, by decide⟩
theorem witness_PopResult (d : StackDiscipline) :
    afeFunction (stacked d).cfg 0#4 = (some fun v => v) ∧ (stacked d).cfg.stack = d ∧
    ∃ pa s1, (stacked d).Translated (stacked d).popAddr .read .word pa s1 := by
  cases d <;> exact ⟨rfl, rfl, _, _, by decide, rfl, by decide, by decide⟩
theorem witness_PushThenPop (d : StackDiscipline) :
    (stacked d).mem.wf = true ∧ (stacked d).PlainAccess (stacked d).pushAddr .word := by
  cases d <;> exact ⟨by decide, .inr (by decide), by decide, by decide, by decide⟩

/-! ### Branch and system -/

theorem witness_BranchResult : condHolds .eq 0b00001#5 = true ∧ condHolds .eq 0#5 = false := by decide
/-- PSR values with paging off and on, with a reserved bit and without, and both processor types. -/
theorem witness_IbResult :
    State.reset.kernel = true ∧ psrLegal State.reset.cfg 0x64 = true ∧ psrLegal State.reset.cfg 0x82 = true ∧
    psrLegal State.reset.cfg 0x20 = false ∧ psrLegal State.reset.cfg 0x102 = false ∧ psrLegal State.reset.cfg 0x400 = false ∧
    psrLegal stateE.cfg 4 = true ∧ psrLegal stateE.cfg 1 = false ∧ stateE.cfg.procType = .typeE ∧
    State.reset.cfg.procType = .typeS := by decide
theorem witness_SprAccess :
    afeFunction State.reset.cfg 0#4 = (some fun v => v) ∧ { State.reset with spr := 0x7FF2 }.spr.toNat % 4 ≠ 0 :=
  ⟨rfl, by decide⟩
theorem witness_InterruptControlWrites :
    afeFunction State.reset.cfg 0#4 = (some fun v => v) ∧ State.reset.kernel = true ∧
    ((State.reset.setReg 1 0xFFFFFFF8).reg 1).toNat % 8 = 0 ∧ ((State.reset.setReg 1 4).reg 1).toNat % 8 ≠ 0 :=
  ⟨rfl, rfl, by decide, by decide⟩
/-- The table at 0, and the highest table that lies in memory. -/
theorem witness_IdtsLoadsTable :
    State.reset.kernel = true ∧ psrIm State.reset.psr = false ∧ State.reset.idtr.toNat + 16384 ≤ State.reset.ramTop ∧
    { State.reset with idtr := 0xFEFFC000 }.idtr.toNat + 16384 = State.reset.ramTop ∧
    State.reset.cfg.idtOrder = .hdlFirst ∧ { State.reset.cfg with idtOrder := .flagsFirst }.idtOrder = .flagsFirst := by
  decide
theorem witness_SwiEnters :
    ends.isS = true ∧ afeFunction ends.cfg 0#4 = (some fun v => v) ∧
    (64 ≤ (ends.operand (.imm 64)).toNat ∧ (ends.operand (.imm 64)).toNat ≤ 127 ∧ ends.Vector (ends.operand (.imm 64)).toNat 0) ∧
    (64 ≤ (ends.operand (.imm 127)).toNat ∧ (ends.operand (.imm 127)).toNat ≤ 127 ∧
      ends.Vector (ends.operand (.imm 127)).toNat 0) ∧
    (ends.operand (.imm 63)).toNat < 64 ∧ 127 < (ends.operand (.imm 128)).toNat ∧ (ends.operand (.reg 0)).toNat < 64 :=
  ⟨rfl, rfl, ⟨by decide, by decide, vector_ends_64⟩, ⟨by decide, by decide, vector_ends_127⟩, by decide, by decide, by decide⟩
theorem witness_SystemRegisterReads :
    (afeFunction State.reset.cfg 0#4 = some fun v => v) ∧ (State.reset.isS = true ∧ State.reset.kernel = true) ∧
    (stateE.kernel = true ∧ stateE.isS = false) ∧
    ((user 0).isS = true ∧ (user 0).kernel = false ∧ (afeFunction (user 0).cfg 0#4 = some fun v => v)) :=
  ⟨rfl, ⟨rfl, rfl⟩, ⟨rfl, rfl⟩, rfl, rfl, rfl⟩
/-- A value of each kind: to be written, and refused for MMUPS 010, MMUPS 000, CMOD 01, MMUMOD 11, and a reserved bit. -/
theorem witness_SystemRegisterWrites :
    State.reset.kernel = true ∧ State.reset.isS = true ∧ stateE.kernel = true ∧ stateE.isS = false ∧
    [0xE6, 0x102, 0x64, 0xA2, 0x83, 0x482].map (fun v : Word => psrWritable State.reset.cfg v) =
      [true, false, false, false, false, false] ∧
    [4, 5].map (fun v : Word => psrWritable stateE.cfg v) = [true, false] := by decide
theorem witness_FrcrCopies : State.reset.kernel = true := rfl
theorem witness_TlbFlushAndSync : State.reset.isS = true ∧ State.reset.kernel = true := ⟨rfl, rfl⟩
theorem witness_PrivilegedInUserMode :
    (user 0).isS = true ∧ (user 0).kernel = false ∧ isPrivileged .ib = true ∧
    afeFunction (user 0).cfg (afeOf .ib) = (some fun v => v) ∧ (user 0).cfg.userPrivFault = true ∧ (user 0).Vector 41 0x3200 ∧
    { (user 0).cfg with userPrivFault := false }.userPrivFault = false :=
  ⟨rfl, rfl, rfl, rfl, rfl, ⟨⟨3, by decide +kernel, rfl, rfl⟩, by decide +kernel⟩, rfl⟩

/-! ### Paging -/

/-- One PTE for each PP code. -/
theorem witness_PagingTables :
    (0x00055009#32).extractLsb' 4 2 = 0b00#2 ∧ (0x00055019#32).extractLsb' 4 2 = 0b01#2 ∧
    (0x00055029#32).extractLsb' 4 2 = 0b10#2 ∧ (0x00055039#32).extractLsb' 4 2 = 0b11#2 := by decide

/-- The state of 95_test_vectors.md 2.13 with a second PTE: all that the statement asks before its clauses. -/
theorem witness_TwoLevelTranslation (e2 : Word) (he : e2 = 0x00055038 ∨ e2 = 0x00055019 ∨ e2 = 0x00055039) :
    (paged e2 0x82 0).mem.wf = true ∧ (paged e2 0x82 0).isS = true ∧ psrMmuMod (paged e2 0x82 0).psr = 0b10#2 ∧
    psrMmuPs (paged e2 0x82 0).psr = 0b001#3 ∧ (paged e2 0x82 0).cfg.mmuMods.contains 0b10#2 = true ∧
    (paged e2 0x82 0).cfg.mmuPageSizes.contains 0b001#3 = true ∧ (paged e2 0x82 0).tableBase.toNat % 4096 = 0 ∧
    0x10004#32 = (paged e2 0x82 0).tableBase + 4#32 * ((0x00403ABC#32).extractLsb' 22 10).zeroExtend 32 ∧
    (paged e2 0x82 0).physRead 0x10004#32 = some 0x00011039#32 ∧ (0x00011039#32).getLsbD 0 = true ∧
    (0x00011039#32).getLsbD 8 = false ∧ (0x00011039#32).extractLsb' 4 2 = 0b11#2 ∧ (0x00011039#32).getLsbD 3 = true ∧
    0x1100C#32 = ((0x00011039#32).extractLsb' 12 20 ++ 0#12) + 4#32 * ((0x00403ABC#32).extractLsb' 12 10).zeroExtend 32 ∧
    (paged e2 0x82 0).physRead 0x1100C#32 = some e2 ∧ 0x10004#32 ≠ 0x1100C#32 ∧ (paged e2 0x82 0).tlb = [] := by
  rcases he with rfl | rfl | rfl <;>
    exact ⟨by decide, rfl, by decide, by decide, by decide, by decide, by decide, by decide, by decide, by decide, by decide,
      by decide, by decide, by decide, by decide, by decide, rfl⟩
/-- The two modes, whose base registers `TwoLevelTranslation` names. -/
theorem witness_TwoLevelTranslation_modes :
    State.reset.psr.extractLsb' 5 2 = 0b00#2 ∧ (user 0).psr.extractLsb' 5 2 = 0b11#2 := ⟨by decide, rfl⟩
/-- The three ends of the second level: invalid, not permitted, permitted. -/
theorem witness_TwoLevelTranslation_ends :
    (0x00055038#32).getLsbD 0 = false ∧
    ((0x00055019#32).getLsbD 0 = true ∧ (0x00055019#32).getLsbD 8 = false ∧ permits false .write 0x00055019 = false) ∧
    ((0x00055039#32).getLsbD 0 = true ∧ (0x00055039#32).getLsbD 8 = false ∧ permits false .write 0x00055039 = true) := by decide
/-- The same with a first PTE. -/
def pagedFirst (e1 : Word) : State := { paged 0 0x82 0 with mem := words [(0x10004, e1)] }
theorem witness_TranslationFaults (e1 : Word) (he : e1 = 0x00011038 ∨ e1 = 0x00800119 ∨ e1 = 0x00800139) :
    (pagedFirst e1).mem.wf = true ∧ (pagedFirst e1).isS = true ∧ psrMmuMod (pagedFirst e1).psr = 0b10#2 ∧
    psrMmuPs (pagedFirst e1).psr = 0b001#3 ∧ (pagedFirst e1).cfg.mmuMods.contains 0b10#2 = true ∧
    (pagedFirst e1).cfg.mmuPageSizes.contains 0b001#3 = true ∧ (pagedFirst e1).tableBase.toNat % 4096 = 0 ∧
    0x10004#32 = (pagedFirst e1).tableBase + 4#32 * ((0x00412345#32).extractLsb' 22 10).zeroExtend 32 ∧
    (pagedFirst e1).physRead 0x10004#32 = some e1 ∧ (pagedFirst e1).tlb = [] := by
  rcases he with rfl | rfl | rfl <;>
    exact ⟨by decide, rfl, by decide, by decide, by decide, by decide, by decide, by decide, by decide, rfl⟩
/-- An invalid first PTE, one of extended size that does not permit a write, and one that does. -/
theorem witness_TranslationFaults_ends :
    (0x00011038#32).getLsbD 0 = false ∧
    ((0x00800119#32).getLsbD 0 = true ∧ (0x00800119#32).getLsbD 8 = true ∧ (0x00800119#32).extractLsb' 12 10 = 0#10 ∧
      permits false .write 0x00800119 = false) ∧
    ((0x00800139#32).getLsbD 0 = true ∧ (0x00800139#32).getLsbD 8 = true ∧ (0x00800139#32).extractLsb' 12 10 = 0#10 ∧
      permits false .write 0x00800139 = true) := by decide
theorem witness_TranslationFaultIsEntered :
    afeFunction unmapped.cfg 0#4 = (some fun v => v) ∧
    (∃ c, unmapped.translate (unmapped.operand (.imm 0x00403ABC)) .read = .raise c (afterFault .read 0x00403ABC)) ∧
    (∃ c, unmapped.translate (unmapped.operand (.imm 0x00403ABC)) .write = .raise c (afterFault .write 0x00403ABC)) ∧
    (0x00403ABC#32).toNat % Width.bytes .word = 0 ∧
    { unmapped with spr := 0x00403ABC }.pushAddr.toNat % 4 = 0 ∧ { unmapped with spr := 0x00403AB8 }.popAddr.toNat % 4 = 0 :=
  ⟨rfl, ⟨_, rfl⟩, ⟨_, rfl⟩, by decide, by decide, by decide⟩

end Sys2Proof.Tests
end

section
/-! PROOF. Every step keeps the invariant `Good`: the values of PSR that entry and `srieiw` make are values it may hold, and
each thing a step can do (Laws/Exec.lean, Laws/Complete.lean) keeps every clause. -/

namespace Sys2Proof.Machine

/-! ### PSR after IM or CMOD is written -/

/-- A bit of PSR other than IM is as before IM was written (R173). -/
theorem psrWithIm_bit (p : Word) (im : Bool) {k : Nat} (hk : k ≠ 2) : (psrWithIm p im).getLsbD k = p.getLsbD k := by
  by_cases hlt : k < 32
  · have hset : ∀ k : Fin 32, k.val ≠ 2 → (0x00000004#32).getLsbD k.val = false := by decide
    have hclear : ∀ k : Fin 32, k.val ≠ 2 → (0xFFFFFFFB#32).getLsbD k.val = true := by decide
    cases im
    · simp [psrWithIm, hclear ⟨k, hlt⟩ hk]
    · simp [psrWithIm, hset ⟨k, hlt⟩ hk]
  · rw [BitVec.getLsbD_of_ge _ _ (by omega), BitVec.getLsbD_of_ge _ _ (by omega)]

/-- A bit of PSR outside CMOD is as before CMOD was cleared (R215, D20). -/
theorem psrKernel_bit (p : Word) {k : Nat} (h5 : k ≠ 5) (h6 : k ≠ 6) : (psrKernel p).getLsbD k = p.getLsbD k := by
  by_cases hlt : k < 32
  · have hclear : ∀ k : Fin 32, k.val ≠ 5 → k.val ≠ 6 → (0xFFFFFF9F#32).getLsbD k.val = true := by decide
    simp [psrKernel, hclear ⟨k, hlt⟩ h5 h6]
  · rw [BitVec.getLsbD_of_ge _ _ (by omega), BitVec.getLsbD_of_ge _ _ (by omega)]

/-- A field of two words whose bits agree there. -/
theorem extractLsb'_congr {p q : Word} {start len : Nat} (h : ∀ k, k < len → q.getLsbD (start + k) = p.getLsbD (start + k)) :
    q.extractLsb' start len = p.extractLsb' start len := by
  apply BitVec.eq_of_getLsbD_eq
  intro k hk
  simp [hk, h k hk]

@[simp] theorem psrCmod_withIm (p : Word) (im : Bool) : psrCmod (psrWithIm p im) = psrCmod p :=
  extractLsb'_congr fun _ _ => psrWithIm_bit p im (by omega)
@[simp] theorem psrMmuMod_withIm (p : Word) (im : Bool) : psrMmuMod (psrWithIm p im) = psrMmuMod p :=
  extractLsb'_congr fun _ _ => psrWithIm_bit p im (by omega)
@[simp] theorem psrMmuPs_withIm (p : Word) (im : Bool) : psrMmuPs (psrWithIm p im) = psrMmuPs p :=
  extractLsb'_congr fun _ _ => psrWithIm_bit p im (by omega)
@[simp] theorem psrMmuMod_kernel (p : Word) : psrMmuMod (psrKernel p) = psrMmuMod p :=
  extractLsb'_congr fun _ _ => psrKernel_bit p (by omega) (by omega)
@[simp] theorem psrMmuPs_kernel (p : Word) : psrMmuPs (psrKernel p) = psrMmuPs p :=
  extractLsb'_congr fun _ _ => psrKernel_bit p (by omega) (by omega)

/-- Under a mask without bit 2, PSR reads the same whatever IM is. -/
theorem psrWithIm_and (p : Word) (im : Bool) {m : Word} (hm : m.getLsbD 2 = false) : psrWithIm p im &&& m = p &&& m := by
  apply BitVec.eq_of_getLsbD_eq
  intro k _
  rw [BitVec.getLsbD_and, BitVec.getLsbD_and]
  by_cases hk : k = 2
  · rw [hk, hm, Bool.and_false, Bool.and_false]
  · rw [psrWithIm_bit p im hk]

/-- Whether PSR may hold a value does not depend on IM (R173, R177). -/
@[simp] theorem psrLegal_withIm (c : Config) (p : Word) (im : Bool) : psrLegal c (psrWithIm p im) = psrLegal c p := by
  have hE : (0xFFFFFFFB#32).getLsbD 2 = false := by decide
  have hS : (0xFFFFFC18#32).getLsbD 2 = false := by decide
  simp only [psrLegal, psrWithIm_and p im hE, psrWithIm_and p im hS, psrCmod_withIm, psrMmuMod_withIm, psrMmuPs_withIm]

/-- Kernel Mode with the other fields of a value that PSR may hold is a value that PSR may hold (R177, R215). -/
theorem psrLegal_kernel {c : Config} {p : Word} (h : psrLegal c p = true) : psrLegal c (psrKernel p) = true := by
  have clear : ∀ m : Word, p &&& m = 0#32 → psrKernel p &&& m = 0#32 := fun m hm => by
    rw [psrKernel, BitVec.and_assoc, BitVec.and_comm _ m, ← BitVec.and_assoc, hm, BitVec.zero_and]
  unfold psrLegal at h ⊢
  cases hc : c.procType with
  | typeE =>
    simp only [hc, beq_iff_eq] at h ⊢
    exact clear _ h
  | typeS =>
    simp only [hc, Bool.and_eq_true, beq_iff_eq] at h
    obtain ⟨⟨hres, -⟩, hpaging⟩ := h
    simp only [psrCmod_kernel, psrMmuMod_kernel, psrMmuPs_kernel, clear _ hres, hpaging]
    rfl

/-! ### What keeps `Good` -/

/-- `Good` depends on the parameters, memory, PSR, the IDT copy, the pending set and the note of stores alone. -/
theorem State.Good.congr {s t : State} (h : s.Good) (hcfg : t.cfg = s.cfg) (hmem : t.mem = s.mem) (hpsr : t.psr = s.psr)
    (hidtc : t.idtc = s.idtc) (hpending : t.pending = s.pending) (hstored : t.storedTo = s.storedTo) : t.Good where
  mem := hmem ▸ h.mem
  psr := by rw [hcfg, hpsr]; exact h.psr
  idtc := hidtc ▸ h.idtc
  pending := hpending ▸ h.pending
  storedTo := hstored ▸ h.storedTo

/-- The end of an instruction keeps `Good` (R12, R15). -/
theorem State.Good.retire {s : State} (h : s.Good) (f : Flags) : (s.retire f).Good :=
  h.congr rfl rfl rfl rfl rfl rfl

/-- A register write keeps `Good` (R11). -/
theorem State.Good.setReg {s : State} (h : s.Good) (r : Reg) (v : Word) : (s.setReg r v).Good :=
  h.congr rfl rfl rfl rfl rfl rfl

/-- A change of SPR keeps `Good` (R17). -/
theorem State.Good.setSpr {s : State} (h : s.Good) (v : Word) : State.Good { s with spr := v } :=
  h.congr rfl rfl rfl rfl rfl rfl

/-- A new value of PSR that it may hold keeps `Good` (R163, R177). -/
theorem State.Good.setPsr {s : State} (h : s.Good) {p : Word} (hp : psrLegal s.cfg p = true) :
    State.Good { s with psr := p } :=
  ⟨h.mem, hp, h.idtc, h.pending, h.storedTo⟩

/-- A data access keeps `Good`: memory stays canonical and the note of stores stays a set (R74, R92). -/
theorem State.Good.accessed {s t : State} (h : s.Good) (ha : s.Accessed t) : t.Good := by
  obtain ⟨hrest, hwf, hrising⟩ := ha
  have hmem := hwf h.mem
  have hstored := hrising h.storedTo
  rw [hrest]
  exact ⟨hmem, h.psr, h.idtc, h.pending, hstored⟩

/-- A table walk keeps `Good` (R84). -/
theorem State.Good.walked {s t : State} (h : s.Good) (hw : s.Walked t) : t.Good := h.accessed hw.accessed

/-- Interrupt entry keeps `Good`: PSR goes to Kernel Mode with IM = 0, and at most one request leaves the pending set
(R215). -/
theorem State.Good.entered {s : State} (h : s.Good) (c : Cause) (ret hdl : Word) : (s.entered c ret hdl).Good where
  mem := h.mem
  psr := by
    have hmasked : psrLegal s.cfg (psrWithIm s.psr false) = true := by rw [psrLegal_withIm]; exact h.psr
    rw [State.entered_cfg, State.entered_psr]
    split
    · exact psrLegal_kernel hmasked
    · exact hmasked
  idtc := h.idtc
  pending := by
    obtain ⟨hrising, hle⟩ := h.pending
    rw [State.entered_pending]
    split
    · exact ⟨rising_erase hrising _, fun n hn => hle n (List.mem_of_mem_erase hn)⟩
    · exact h.pending
  storedTo := h.storedTo

/-- The boundary before an instruction keeps `Good`, if the devices request only numbers they have (R210, R211). -/
theorem State.Good.atBoundary {s : State} (h : s.Good) (hr : s.requestsNow.all hardwareNumber = true) :
    s.atBoundary.Good := by
  have hpending : risingFrom 4 s.atBoundary.pending = true ∧ ∀ n ∈ s.atBoundary.pending, n ≤ 37 :=
    (State.requested_withRequests s hr).pending h.pending
  rw [State.atBoundary_rest]
  exact ⟨h.mem, h.psr, h.idtc, hpending, h.storedTo⟩

/-! ### What an instruction does keeps `Good` -/

/-- `idts` reads as many flag words as it is asked for (R175). -/
@[simp] theorem State.length_idtFlags (s : State) (n k : Nat) : (s.idtFlags n k).length = k := by
  induction k generalizing n with
  | zero => rfl
  | succ k ih => rw [State.idtFlags, List.length_cons, ih]

/-- Writing a system register other than PSR leaves PSR as it is (R177). -/
theorem State.writeSys_psr_of_ne (s : State) {r : WriteReg} (v : Word) (hr : r ≠ .psr) : (s.writeSys r v).psr = s.psr := by
  cases r with
  | psr => exact absurd rfl hr
  | _ => rfl

/-- A write of a system register keeps `Good`, if a value written to PSR is one it may hold (R177). -/
theorem State.Good.writeSys {s : State} (h : s.Good) (r : WriteReg) {v : Word}
    (hv : r = .psr → psrLegal s.cfg v = true) : (s.writeSys r v).Good := by
  by_cases hr : r = .psr
  · subst hr
    exact h.setPsr (hv rfl)
  · exact h.congr (by simp) (by simp) (State.writeSys_psr_of_ne s v hr) (by simp) (by simp) (by simp)

/-- The own effect of every instruction keeps `Good`. -/
theorem DirectEffect.good {i : Instr} {s t : State} (hd : DirectEffect i s t) (h : s.Good) : t.Good := by
  cases i <;> simp only [DirectEffect] at hd
  case add | mul =>
    obtain ⟨v, f, rfl⟩ := hd
    exact (h.setReg _ v).retire f
  case shl | shr =>
    obtain ⟨v, f, rfl | rfl⟩ := hd
    · exact (h.setReg _ v).retire f
    · exact h.congr rfl rfl rfl rfl rfl rfl
  case cmp | test =>
    obtain ⟨f, rfl⟩ := hd
    exact h.retire f
  case wl16 | lil | lih | movepc | srspr | clw | srRegR =>
    obtain ⟨v, rfl⟩ := hd
    exact (h.setReg _ v).retire _
  case ld8 | ld16 | ld32 =>
    obtain ⟨s1, v, ha, rfl⟩ := hd
    exact ((h.accessed ha).setReg _ v).retire _
  case st8 | st16 | st32 =>
    obtain ⟨s1, ha, rfl⟩ := hd
    exact (h.accessed ha).retire _
  case push | ppush =>
    obtain ⟨s1, x, ha, rfl⟩ := hd
    exact ((h.accessed ha).setSpr x).retire _
  case pop =>
    obtain ⟨s1, v, x, ha, rfl⟩ := hd
    exact (((h.accessed ha).setSpr x).setReg _ v).retire _
  case branch | srspw =>
    obtain ⟨x, rfl⟩ := hd
    exact h.congr rfl rfl rfl rfl rfl rfl
  case sridtw | frcrCopyIn | tlbFlush =>
    obtain ⟨-, x, rfl⟩ := hd
    exact h.congr rfl rfl rfl rfl rfl rfl
  case frcrCopyOut =>
    obtain ⟨a, b, rfl⟩ := hd
    exact h.congr rfl rfl rfl rfl rfl rfl
  case ib =>
    obtain ⟨-, hlegal, rfl⟩ := hd
    exact ⟨h.mem, hlegal, h.idtc, h.pending, h.storedTo⟩
  case srieiw =>
    obtain ⟨-, im, rfl⟩ := hd
    exact (h.setPsr (by rw [psrLegal_withIm]; exact h.psr)).retire _
  case idts =>
    obtain ⟨-, rfl⟩ := hd
    exact ⟨h.mem, h.psr, .inr (State.length_idtFlags s 0 idtEntries), h.pending, h.storedTo⟩
  case srRegW r rs =>
    obtain ⟨-, hw, rfl⟩ := hd
    exact (h.writeSys r fun hr => psrLegal_of_writable (hw hr)).retire _
  case sync =>
    subst hd
    exact h.retire _

/-- Settles O17: a step enters an interrupt or runs an instruction, after the boundary and a table walk, and each of these
keeps `Good`. -/
theorem stepKeepsGood : Obligations.StepKeepsGood := by
  intro s t hs hstep
  obtain ⟨hr, hcases⟩ := step_next hstep
  have hb := hs.atBoundary hr
  rcases hcases with ⟨c, ret, s1, hdl, hw, rfl, -⟩ | ⟨i, s1, hw, -, hd⟩
  · exact (hb.walked hw).entered c ret hdl
  · exact hd.good (hb.walked hw)

end Sys2Proof.Machine
end

section
/-! PROOF. What a step does where nothing is taken at the boundary, with paging off and through translation, and what the
boundary itself does. -/

namespace Sys2Proof.Machine

/-! ### The boundary -/

@[simp] theorem State.atBoundary_cfg (s : State) : s.atBoundary.cfg = s.cfg := by rw [State.atBoundary_rest]
@[simp] theorem State.atBoundary_pcr (s : State) : s.atBoundary.pcr = s.pcr := by rw [State.atBoundary_rest]
@[simp] theorem State.atBoundary_psr (s : State) : s.atBoundary.psr = s.psr := by rw [State.atBoundary_rest]
@[simp] theorem State.atBoundary_iosar (s : State) : s.atBoundary.iosar = s.iosar := by rw [State.atBoundary_rest]
@[simp] theorem State.atBoundary_mem (s : State) : s.atBoundary.mem = s.mem := by rw [State.atBoundary_rest]
@[simp] theorem State.atBoundary_storedTo (s : State) : s.atBoundary.storedTo = s.storedTo := by
  rw [State.atBoundary_rest]
@[simp] theorem State.atBoundary_isS (s : State) : s.atBoundary.isS = s.isS := State.isS_congr s.atBoundary_cfg
@[simp] theorem State.atBoundary_ramTop (s : State) : s.atBoundary.ramTop = s.ramTop :=
  State.ramTop_congr s.atBoundary_cfg s.atBoundary_iosar
@[simp] theorem State.atBoundary_isIo (s : State) (a : Word) : s.atBoundary.isIo a = s.isIo a :=
  State.isIo_congr s.atBoundary_cfg s.atBoundary_iosar a

/-- With no request, the boundary takes an item off the schedule and FRCR counts on (R35). -/
theorem State.atBoundary_of_no_request {s : State} (h : s.arrivals.headD [] = []) :
    s.atBoundary =
      { s with arrivals := s.arrivals.tail, frcr := s.frcr + Config.frcAdvance s.draws, draws := s.draws + 1 } := by
  have hreq : s.withRequests = { s with arrivals := s.arrivals.tail } := by
    rw [State.withRequests, State.requestsNow, h, List.foldl_nil]
  rw [State.atBoundary, hreq]
  rfl

/-- Type-S: what becomes pending at the boundary is the first request of each unit in S0 (R210, R223; log 60). -/
theorem State.mem_pending_atBoundary_typeS {s : State} (hs : s.isS = true) (m : Nat) :
    m ∈ s.atBoundary.pending ↔ m ∈ s.pending ∨ s.unitState (unitOfNumber m) = .s0 ∧
      (s.arrivals.headD []).find? (fun n => unitOfNumber n == unitOfNumber m) = some m := by
  have h := (State.requests_typeS (s := { s with arrivals := s.arrivals.tail }) hs s.requestsNow).2 m
  cases hu : unitOfNumber m <;> rw [hu] at h <;> exact h

/-- Type-S: the interrupt state of a unit at the boundary (R223; log 60). -/
theorem State.unitState_atBoundary_typeS {s : State} (hs : s.isS = true) (u : IoUnit) :
    s.atBoundary.unitState u =
      match s.unitState u with
      | .i0 k => .i0 k
      | .s0 =>
        match (s.arrivals.headD []).find? fun n => unitOfNumber n == u with
        | some n => .i0 n
        | none => .s0 := by
  have h := (State.requests_typeS (s := { s with arrivals := s.arrivals.tail }) hs s.requestsNow).1 u
  cases u <;> exact h

/-- A request for a number that no device has is refused at the boundary (U6). -/
theorem step_reservedRequest {s : State} (h : ∃ n ∈ s.arrivals.headD [], n < 4 ∨ 37 < n) :
    step s = .refused .reservedRequest := by
  obtain ⟨n, hn, hout⟩ := h
  have hall : s.requestsNow.all hardwareNumber ≠ true := fun hall => by
    have hin := List.all_eq_true.mp hall n hn
    simp only [hardwareNumber, Bool.and_eq_true, decide_eq_true_eq] at hin
    omega
  rw [step, State.cycle, if_neg hall]

/-! ### The step where nothing is taken -/

/-- Where nothing is taken at the boundary, the step runs the next instruction (R4, R211). -/
theorem State.Undisturbed.step_eq {s : State} (h : s.Undisturbed) : step s = s.atBoundary.runNext := by
  rw [step, State.cycle, if_pos h.requests, h.nothingTaken]

/-- A fetch whose translation ends in memory, at bytes that no store has reached, reads the word there (R63, R74, R92). -/
theorem State.Translated.fetch_eq {s s1 : State} {pa : Word} (h : s.Translated s.pcr .fetch .word pa s1)
    (hstored : ∀ k, k < 4 → pa.toNat + k ∉ s.storedTo) : s.fetch = .ok (s1.mem.readBE pa.toNat 4) s1 := by
  have hrest := h.walked.rest
  have hcfg : s1.cfg = s.cfg := by rw [hrest]
  have hiosar : s1.iosar = s.iosar := by rw [hrest]
  have hio : s1.isIo pa = false := by rw [State.isIo_congr hcfg hiosar, h.memory]
  have hinside : pa.toNat + 4 ≤ s1.ramTop := by rw [State.ramTop_congr hcfg hiosar]; exact h.inside
  have hfree : ∀ k, k < 4 → pa.toNat + k ∉ s1.storedTo := by rw [hrest]; exact hstored
  have haligned : Machine.aligned s.pcr .word = true := by simp [Machine.aligned, h.aligned]
  simpa [State.fetch, haligned, h.translation, Res.bind, State.fetchPhys, hio, hinside] using hfree

/-- A fetch whose translation raises an interrupt raises it (R90, R91, R92). -/
theorem State.fetch_of_raise {s s1 : State} {c : Cause} (ha : s.pcr.toNat % 4 = 0)
    (h : s.translate s.pcr .fetch = .raise c s1) : s.fetch = .raise c s1 := by
  have haligned : Machine.aligned s.pcr .word = true := by simp [Machine.aligned, Width.bytes, ha]
  rw [State.fetch, if_pos haligned, h]
  rfl

/-- The step where nothing is taken and the translation of PCR ends in memory: the word there runs (R4, R63, R92). -/
theorem State.Undisturbed.step_translated {s s1 : State} {pa : Word} (hu : s.Undisturbed)
    (h : s.atBoundary.Translated s.pcr .fetch .word pa s1) (hstored : ∀ k, k < 4 → pa.toNat + k ∉ s.storedTo) :
    step s = s1.runWord (s1.mem.readBE pa.toNat 4) := by
  rw [← s.atBoundary_pcr] at h
  rw [← s.atBoundary_storedTo] at hstored
  rw [hu.step_eq, State.runNext, h.fetch_eq hstored]
  rfl

/-- The step where nothing is taken and the translation of PCR raises an interrupt: it is entered with PCR as the return
address (R217). -/
theorem State.Undisturbed.step_raise {s s1 : State} {c : Cause} (hu : s.Undisturbed) (ha : s.pcr.toNat % 4 = 0)
    (h : s.atBoundary.translate s.pcr .fetch = .raise c s1) : step s = s1.enter c s.pcr := by
  rw [← s.atBoundary_pcr] at ha h
  have hfetch := State.fetch_of_raise ha h
  have hpcr := (State.fetch_raise hfetch).pcr
  rw [hu.step_eq, State.runNext, hfetch, ← s.atBoundary_pcr, ← hpcr]
  rfl

/-- A plain fetch is a fetch whose translation at the boundary is the identity (R76, R92). -/
theorem State.PlainFetch.translated {s : State} {w : Word} (h : s.PlainFetch w) :
    s.atBoundary.Translated s.pcr .fetch .word s.pcr s.atBoundary where
  aligned := h.aligned
  translation := State.translate_off (by rw [State.atBoundary_isS, State.atBoundary_psr]; exact h.pagingOff) _ _
  memory := by rw [State.atBoundary_isIo]; exact h.memory
  inside := by rw [State.atBoundary_ramTop]; exact h.inside

/-- The step of a plain fetch of `w`: `w` runs on the state at the boundary (R4, R63). -/
theorem State.PlainFetch.step_eq {s : State} {w : Word} (h : s.PlainFetch w) : step s = s.atBoundary.runWord w := by
  rw [h.undisturbed.step_translated h.translated h.notStored, State.atBoundary_mem, Memory.readBE_four, ← h.word]

/-- A word that decodes to an instruction runs as that instruction (R4). -/
theorem State.runWord_instr {s : State} {w : Word} {i : Instr} (h : decodeFor s.cfg w = .instr i) :
    s.runWord w = exec i s := by
  rw [State.runWord, h]

/-! ### The obligations -/

/-- Settles O7: a plain fetch is one whose translation is the identity, and the clauses about the boundary are those about
its requests. -/
theorem stepRunsDecodedInstruction : Obligations.StepRunsDecodedInstruction := by
  refine ⟨fun s w i hf hd => ?_, fun s => ⟨s.atBoundary_rest, State.atBoundary_of_no_request, fun hs => ?_, fun hs => ?_,
    rfl, rfl, step_reservedRequest⟩, fun _ => rfl⟩
  · rw [hf.step_eq, State.runWord_instr (by rw [State.atBoundary_cfg]; exact hd)]
  · have hunit := State.unitState_atBoundary_typeS hs
    refine ⟨State.mem_pending_atBoundary_typeS hs, fun u k hu => ?_, fun u n hu hfind => ?_, fun u hu hnone => ?_⟩
    · rw [hunit, hu]
    · rw [hunit, hu, hfind]
    · have hfind : (s.arrivals.headD []).find? (fun n => unitOfNumber n == u) = none := by simpa using hnone
      rw [hunit, hu, hfind]
  · exact State.requests_typeE (s := { s with arrivals := s.arrivals.tail }) hs s.requestsNow

/-- Settles O8: the fetch runs the word where the translation ends, or enters the fault it raises, and a translation
changes nothing but the PTEs it reads and the TLB. -/
theorem stepRunsTranslatedInstruction : Obligations.StepRunsTranslatedInstruction := by
  intro s hu
  have hptes := State.translate_onlyPtes s.atBoundary s.pcr .fetch
  refine ⟨fun pa s1 i ht hstored hd => ?_, fun c s1 ha ht => ?_⟩
  · have hcfg : s1.cfg = s.cfg := by rw [ht.walked.rest, State.atBoundary_cfg]
    rw [ht.translation] at hptes
    rw [hu.step_translated ht hstored, State.runWord_instr (by rw [hcfg]; exact hd)]
    exact ⟨rfl, hptes⟩
  · rw [ht] at hptes
    exact ⟨hu.step_raise ha ht, hptes⟩

end Sys2Proof.Machine
end

section
/-! PROOF. What an instruction may do to the registers that control the machine: sorted by what it writes beside the general
registers, memory and the notes of accesses, it has one of a few effects, and most of these need Kernel Mode. -/

namespace Sys2Proof.Machine

/-! ### After an entry -/

/-- An instruction that raised an interrupt has left an entered state, after no more than a table walk (R215, R222). -/
theorem State.Raised.entered {access : Bool} {s t : State} (h : State.Raised access s t) :
    ∃ s1 c ret hdl, s.Walked s1 ∧ t = s1.entered c ret hdl := by
  obtain ⟨c, ret, s1, hw, -, he, -⟩ := h
  obtain ⟨c', f, hdl, -, -, -, -, ht, -⟩ := State.enter_next he
  exact ⟨s1, c', ret, hdl, hw, ht⟩

/-- Entry ends User Mode in Type-S (R215, D20). -/
theorem State.userMode_entered {s : State} (hs : s.isS = true) (c : Cause) (ret hdl : Word) :
    (s.entered c ret hdl).userMode = false := by
  simp [State.userMode, hs, psrCmod_kernel]

/-- In User Mode of Type-S the privileged instructions are not usable (R183). -/
theorem State.kernel_of_userMode {s : State} (hs : s.isS = true) (hu : s.userMode = true) : s.kernel = false := by
  simp only [State.userMode, beq_iff_eq] at hu
  simp [State.kernel, hs, hu]

/-- The state in which a fetched instruction runs, or an interrupt is entered: the boundary and a table walk have changed
no register but FRCR, which has counted on (R35, R84). -/
theorem State.rest_of_walked_atBoundary {s s1 : State} (h : s.atBoundary.Walked s1) :
    s1 = { s with arrivals := s1.arrivals, pending := s1.pending, dps := s1.dps, gci := s1.gci, mem := s1.mem,
                  tlb := s1.tlb, draws := s1.draws, frcr := s.frcr + Config.frcAdvance s.draws } := by
  have hrest := h.rest
  rw [State.atBoundary_rest] at hrest
  rw [hrest]

/-! ### What an instruction does to the control registers -/

/-- Between two states nothing has changed but the general registers, PCR, FLAGR, memory, the TLB, the units' interrupt
state and the notes of accesses: every other register is as before. -/
structure State.DataOnly (s t : State) : Prop where
  rest : t = { s with gpr := t.gpr, pcr := t.pcr, flagr := t.flagr, mem := t.mem, tlb := t.tlb, dps := t.dps, gci := t.gci,
                      storedTo := t.storedTo, ioLog := t.ioLog, draws := t.draws }

theorem State.DataOnly.trans {s t u : State} (h : s.DataOnly t) (k : t.DataOnly u) : s.DataOnly u := by
  have h1 := h.rest
  have h2 := k.rest
  rw [h1] at h2
  exact ⟨h2⟩

/-- A register write and the end of the instruction touch data alone (R11, R12). -/
theorem State.dataOnly_setReg_retire (s : State) (r : Reg) (v : Word) (f : Flags) :
    s.DataOnly ((s.setReg r v).retire f) := ⟨rfl⟩

/-- The end of an instruction touches data alone (R12, R15). -/
theorem State.dataOnly_retire (s : State) (f : Flags) : s.DataOnly (s.retire f) := ⟨rfl⟩

/-- A data access touches data alone (R92). -/
theorem State.Accessed.dataOnly {s t : State} (h : s.Accessed t) : s.DataOnly t := by
  have hrest := h.rest
  exact ⟨by rw [hrest]⟩

/-- What an instruction does to the registers that control the machine, one constructor for each of the things it may do;
where an instruction is privileged, it has run in Kernel Mode (R45, R183). -/
inductive ControlEffect (s : State) : Instr → State → Prop where
  /-- None of them changes. -/
  | dataOnly {i : Instr} {t : State} (h : s.DataOnly t) : ControlEffect s i t
  /-- The stack instructions and `srspw` (R149, R172). -/
  | spr {i : Instr} {u : State} (x : Word) (h : s.DataOnly u)
      (hi : (∃ a r, i = .push a r) ∨ i = .ppush ∨ (∃ a r, i = .pop a r) ∨ ∃ a r, i = .srspw a r) :
      ControlEffect s i { u with spr := x }
  /-- FRCR copy-out (R178). -/
  | frcrBuffers (a b : Word) : ControlEffect s .frcrCopyOut ({ s with frchr := a, frclr := b }.retire 0#5)
  /-- `ib` (R163). -/
  | returned (hk : s.kernel = true) : ControlEffect s .ib s.returned
  /-- `srieiw` (R173). -/
  | psrIm (hk : s.kernel = true) (afe : Code) (v : MaskOperand) (p : Word) :
      ControlEffect s (.srieiw afe v) ({ s with psr := p }.retire 0#5)
  /-- `sridtw` (R174). -/
  | idtr (hk : s.kernel = true) (afe : Code) (rs : Reg) (x : Word) :
      ControlEffect s (.sridtw afe rs) ({ s with idtr := x }.retire 0#5)
  /-- `idts` (R175). -/
  | idtc (hk : s.kernel = true) (l : List Word) : ControlEffect s .idts ({ s with idtc := l }.retire 0#5)
  /-- `sr<REG>w` (R177). -/
  | writeSys (hk : s.kernel = true) (r : WriteReg) (rs : Reg) (v : Word) :
      ControlEffect s (.srRegW r rs) ((s.writeSys r v).retire 0#5)
  /-- FRCR copy-in (R179). -/
  | frcr (hk : s.kernel = true) (x : BitVec 64) : ControlEffect s .frcrCopyIn ({ s with frcr := x }.retire 0#5)

/-- The own effect of every instruction, sorted. -/
theorem DirectEffect.control {i : Instr} {s t : State} (hd : DirectEffect i s t) : ControlEffect s i t := by
  cases i <;> simp only [DirectEffect] at hd
  case add | mul =>
    obtain ⟨v, f, rfl⟩ := hd
    exact .dataOnly (s.dataOnly_setReg_retire _ v f)
  case shl | shr =>
    obtain ⟨v, f, rfl | rfl⟩ := hd
    · exact .dataOnly (s.dataOnly_setReg_retire _ v f)
    · exact .dataOnly ⟨rfl⟩
  case cmp | test =>
    obtain ⟨f, rfl⟩ := hd
    exact .dataOnly (s.dataOnly_retire f)
  case wl16 | lil | lih | movepc | srspr | clw | srRegR =>
    obtain ⟨v, rfl⟩ := hd
    exact .dataOnly (s.dataOnly_setReg_retire _ v _)
  case ld8 | ld16 | ld32 =>
    obtain ⟨s1, v, ha, rfl⟩ := hd
    exact .dataOnly (ha.dataOnly.trans (s1.dataOnly_setReg_retire _ v _))
  case st8 | st16 | st32 =>
    obtain ⟨s1, ha, rfl⟩ := hd
    exact .dataOnly (ha.dataOnly.trans (s1.dataOnly_retire _))
  case push a r =>
    obtain ⟨s1, x, ha, rfl⟩ := hd
    exact .spr (u := s1.retire 0#5) x (ha.dataOnly.trans (s1.dataOnly_retire _)) (.inl ⟨a, r, rfl⟩)
  case ppush =>
    obtain ⟨s1, x, ha, rfl⟩ := hd
    exact .spr (u := s1.retire 0#5) x (ha.dataOnly.trans (s1.dataOnly_retire _)) (.inr (.inl rfl))
  case pop a r =>
    obtain ⟨s1, v, x, ha, rfl⟩ := hd
    exact .spr (u := (s1.setReg r v).retire 0#5) x (ha.dataOnly.trans (s1.dataOnly_setReg_retire r v _))
      (.inr (.inr (.inl ⟨a, r, rfl⟩)))
  case srspw a r =>
    obtain ⟨x, rfl⟩ := hd
    exact .spr (u := s.retire 0#5) x (s.dataOnly_retire _) (.inr (.inr (.inr ⟨a, r, rfl⟩)))
  case branch =>
    obtain ⟨p, rfl⟩ := hd
    exact .dataOnly ⟨rfl⟩
  case tlbFlush =>
    obtain ⟨-, l, rfl⟩ := hd
    exact .dataOnly ⟨rfl⟩
  case sync =>
    subst hd
    exact .dataOnly (s.dataOnly_retire _)
  case frcrCopyOut =>
    obtain ⟨a, b, rfl⟩ := hd
    exact .frcrBuffers a b
  case ib =>
    obtain ⟨hk, -, rfl⟩ := hd
    exact .returned hk
  case srieiw afe v =>
    obtain ⟨hk, im, rfl⟩ := hd
    exact .psrIm hk afe v _
  case sridtw afe rs =>
    obtain ⟨hk, x, rfl⟩ := hd
    exact .idtr hk afe rs x
  case idts =>
    obtain ⟨hk, rfl⟩ := hd
    exact .idtc hk _
  case srRegW r rs =>
    obtain ⟨hk, -, rfl⟩ := hd
    exact .writeSys hk r rs _
  case frcrCopyIn =>
    obtain ⟨hk, x, rfl⟩ := hd
    exact .frcr hk x

/-- The registers that no User Mode instruction writes are as before (R45, R183). -/
structure State.ControlKept (s t : State) : Prop where
  bases : t.pdtr = s.pdtr ∧ t.kpdtr = s.kpdtr ∧ t.tidr = s.tidr ∧ t.tisr = s.tisr ∧ t.idtr = s.idtr ∧ t.idtc = s.idtc ∧
    t.frcr = s.frcr
  context : t.psr = s.psr ∧ t.pflagr = s.pflagr ∧ t.ppcr = s.ppcr ∧ t.ppsr = s.ppsr ∧ t.ppdtr = s.ppdtr ∧
    t.ptidr = s.ptidr ∧ t.fi0r = s.fi0r ∧ t.fi1r = s.fi1r

/-- Where only data has changed, the control registers are kept. -/
theorem State.DataOnly.controlKept {s t : State} (h : s.DataOnly t) : s.ControlKept t := by
  rw [h.rest]
  exact ⟨⟨rfl, rfl, rfl, rfl, rfl, rfl, rfl⟩, ⟨rfl, rfl, rfl, rfl, rfl, rfl, rfl, rfl⟩⟩

/-- Outside Kernel Mode an instruction keeps the control registers: those that write them are privileged (R183). -/
theorem ControlEffect.controlKept {s t : State} {i : Instr} (h : ControlEffect s i t) (hk : s.kernel = false) :
    s.ControlKept t := by
  cases h with
  | dataOnly h => exact h.controlKept
  | spr x h => exact ⟨h.controlKept.bases, h.controlKept.context⟩
  | frcrBuffers a b => exact ⟨⟨rfl, rfl, rfl, rfl, rfl, rfl, rfl⟩, ⟨rfl, rfl, rfl, rfl, rfl, rfl, rfl, rfl⟩⟩
  | returned hkernel | psrIm hkernel | idtr hkernel | idtc hkernel | writeSys hkernel | frcr hkernel =>
    rw [hk] at hkernel
    cases hkernel

/-- Settles O20: what a step does in User Mode is an entry, which ends User Mode, or the effect of an instruction that is not
privileged. -/
theorem userModeKeepsControlState : Obligations.UserModeKeepsControlState := by
  intro s t hs hu hstep
  obtain ⟨-, ⟨c, ret, s1, hdl, hw, rfl, -⟩ | ⟨i, s1, hw, -, hd⟩⟩ := step_next hstep
  · have hrest := State.rest_of_walked_atBoundary hw
    have hs1 : s1.isS = true := by rw [hrest]; exact hs
    refine ⟨?_, fun hut => ?_⟩
    · rw [hrest]
      exact ⟨rfl, rfl, rfl, rfl, rfl, rfl, rfl⟩
    · rw [State.userMode_entered hs1] at hut
      cases hut
  · have hrest := State.rest_of_walked_atBoundary hw
    have hk : s1.kernel = false := by rw [hrest]; exact State.kernel_of_userMode hs hu
    obtain ⟨hbases, hcontext⟩ := hd.control.controlKept hk
    rw [hrest] at hbases hcontext
    exact ⟨hbases, fun _ => hcontext⟩

/-! ### The parameters and the ROM registers -/

/-- The parameters, CPUIDR, COREIDR and IOSAR are as before (R24, R25, R27). -/
def State.RomKept (s t : State) : Prop :=
  t.cfg = s.cfg ∧ t.cpuidr = s.cpuidr ∧ t.coreidr = s.coreidr ∧ t.iosar = s.iosar

theorem State.DataOnly.romKept {s t : State} (h : s.DataOnly t) : s.RomKept t := by
  rw [h.rest]
  exact ⟨rfl, rfl, rfl, rfl⟩

theorem State.RomKept.trans {s t u : State} (h : s.RomKept t) (k : t.RomKept u) : s.RomKept u := by
  obtain ⟨hcfg, hcpuidr, hcoreidr, hiosar⟩ := h
  obtain ⟨kcfg, kcpuidr, kcoreidr, kiosar⟩ := k
  exact ⟨kcfg.trans hcfg, kcpuidr.trans hcpuidr, kcoreidr.trans hcoreidr, kiosar.trans hiosar⟩

/-- Neither the boundary nor a table walk writes them (R35, R84). -/
theorem State.romKept_of_walked_atBoundary {s s1 : State} (h : s.atBoundary.Walked s1) : s.RomKept s1 := by
  rw [State.rest_of_walked_atBoundary h]
  exact ⟨rfl, rfl, rfl, rfl⟩

/-- Entry does not write them (R215). -/
theorem State.romKept_entered (s : State) (c : Cause) (ret hdl : Word) : s.RomKept (s.entered c ret hdl) :=
  ⟨rfl, rfl, rfl, rfl⟩

/-- No instruction writes them. -/
theorem ControlEffect.romKept {s t : State} {i : Instr} (h : ControlEffect s i t) : s.RomKept t := by
  cases h with
  | dataOnly h => exact h.romKept
  | spr x h => exact h.romKept
  | writeSys _ r rs v => exact ⟨by simp, by simp, by simp, by simp⟩
  | frcrBuffers | returned | psrIm | idtr | idtc | frcr => exact ⟨rfl, rfl, rfl, rfl⟩

/-- Settles O18: neither the boundary, nor a table walk, nor an entry, nor an instruction writes them. -/
theorem stepKeepsParametersAndRom : Obligations.StepKeepsParametersAndRom := by
  intro s t hstep
  obtain ⟨-, ⟨c, ret, s1, hdl, hw, rfl, -⟩ | ⟨i, s1, hw, -, hd⟩⟩ := step_next hstep
  · exact (State.romKept_of_walked_atBoundary hw).trans (s1.romKept_entered c ret hdl)
  · exact (State.romKept_of_walked_atBoundary hw).trans hd.control.romKept

/-! ### Flags -/

/-- The own effect of an instruction that generates no flags, and is not `ib`, ends with FLAGR 0 (R15, R130). -/
theorem DirectEffect.flagr {i : Instr} {s t : State} (hd : DirectEffect i s t) (hi : mayLeaveFlags i = false) :
    t.flagr = 0#5 := by
  cases i <;> simp only [DirectEffect] at hd
  case cmp | test | add | mul | shl | shr | ib => cases hi
  case wl16 | lil | lih | movepc | srspr | clw | srRegR | branch | srspw =>
    obtain ⟨v, rfl⟩ := hd
    rfl
  case ld8 | ld16 | ld32 | push | ppush =>
    obtain ⟨s1, v, -, rfl⟩ := hd
    rfl
  case st8 | st16 | st32 =>
    obtain ⟨s1, -, rfl⟩ := hd
    rfl
  case pop =>
    obtain ⟨s1, v, x, -, rfl⟩ := hd
    rfl
  case srieiw | sridtw | frcrCopyIn | tlbFlush =>
    obtain ⟨-, x, rfl⟩ := hd
    rfl
  case frcrCopyOut =>
    obtain ⟨a, b, rfl⟩ := hd
    rfl
  case idts =>
    obtain ⟨-, rfl⟩ := hd
    rfl
  case srRegW =>
    obtain ⟨-, -, rfl⟩ := hd
    rfl
  case sync =>
    subst hd
    rfl

/-- Settles O21: entry clears FLAGR (R215), and so does every effect that generates no flags. -/
theorem onlyFlagInstructionsLeaveFlags : Obligations.OnlyFlagInstructionsLeaveFlags := by
  intro i s t hi hexec
  rcases exec_next hexec with hraised | hd
  · obtain ⟨s1, c, ret, hdl, -, rfl⟩ := hraised.entered
    rfl
  · exact hd.flagr hi

/-! ### Special registers -/

/-- Settles O23: entry writes none of the registers, and each thing that an instruction does to the control registers is
done by the instructions the statement names. -/
theorem specialRegistersHaveTheirInstructions : Obligations.SpecialRegistersHaveTheirInstructions := by
  intro i s t hexec
  rcases exec_next hexec with hraised | hd
  · obtain ⟨s1, c, ret, hdl, hw, rfl⟩ := hraised.entered
    rw [hw.rest]
    simp
  · cases hd.control with
    | dataOnly h =>
      rw [h.rest]
      simp
    | spr x h hi =>
      refine ⟨fun _ => hi, ?_⟩
      rw [h.rest]
      simp
    | writeSys _ r rs v => cases r <;> simp [State.writeSys]
    | frcrBuffers | returned | psrIm | idtr | idtc | frcr => simp

/-! ### General registers -/

/-- A data access leaves the general registers alone (R92). -/
theorem State.Accessed.reg {s t : State} (h : s.Accessed t) (r : Reg) : t.reg r = s.reg r :=
  State.reg_congr (by rw [h.rest]) r

/-- A table walk leaves the general registers alone (R84). -/
theorem State.Walked.reg {s t : State} (h : s.Walked t) (r : Reg) : t.reg r = s.reg r := h.accessed.reg r

/-- A write of another register leaves a register alone (R11). -/
theorem State.reg_setReg_of_ne (s : State) {rd r : Reg} (v : Word) (h : some rd ≠ some r) :
    (s.setReg rd v).reg r = s.reg r := by
  rw [State.reg_setReg, if_neg fun hr => h (by rw [hr])]

/-- The own effect of an instruction leaves every general register but its destination alone (R11). -/
theorem DirectEffect.reg {i : Instr} {s t : State} (hd : DirectEffect i s t) {r : Reg} (hr : destOf i ≠ some r) :
    t.reg r = s.reg r := by
  cases i <;> simp only [DirectEffect] at hd
  case add | mul =>
    obtain ⟨v, f, rfl⟩ := hd
    exact s.reg_setReg_of_ne v hr
  case shl | shr =>
    obtain ⟨v, f, rfl | rfl⟩ := hd
    · exact s.reg_setReg_of_ne v hr
    · exact s.drawn.reg_setReg_of_ne v hr
  case wl16 | lil | lih | movepc | srspr | clw | srRegR =>
    obtain ⟨v, rfl⟩ := hd
    exact s.reg_setReg_of_ne v hr
  case ld8 | ld16 | ld32 =>
    obtain ⟨s1, v, ha, rfl⟩ := hd
    exact (s1.reg_setReg_of_ne v hr).trans (ha.reg r)
  case pop =>
    obtain ⟨s1, v, x, ha, rfl⟩ := hd
    exact (State.reg_setReg_of_ne { s1 with spr := x } v hr).trans (ha.reg r)
  case st8 | st16 | st32 =>
    obtain ⟨s1, ha, rfl⟩ := hd
    exact ha.reg r
  case push | ppush =>
    obtain ⟨s1, x, ha, rfl⟩ := hd
    exact ha.reg r
  case cmp | test | branch | srspw =>
    obtain ⟨x, rfl⟩ := hd
    rfl
  case srieiw | sridtw | frcrCopyIn | tlbFlush =>
    obtain ⟨-, x, rfl⟩ := hd
    rfl
  case frcrCopyOut =>
    obtain ⟨a, b, rfl⟩ := hd
    rfl
  case ib =>
    obtain ⟨-, -, rfl⟩ := hd
    rfl
  case idts =>
    obtain ⟨-, rfl⟩ := hd
    rfl
  case srRegW =>
    obtain ⟨-, -, rfl⟩ := hd
    exact State.reg_congr (by simp) r
  case sync =>
    subst hd
    rfl

/-- Settles O24: entry writes no general register (R215), and an instruction writes its destination alone. -/
theorem onlyTheDestinationRegisterChanges : Obligations.OnlyTheDestinationRegisterChanges := by
  intro i s t r hexec hr
  rcases exec_next hexec with hraised | hd
  · obtain ⟨s1, c, ret, hdl, hw, rfl⟩ := hraised.entered
    exact hw.reg r
  · exact hd.reg hr

/-! ### Reset and the Previous registers -/

/-- Settles O5: each value is that of the reset state as written, and RESET_PC is a multiple of 4. -/
theorem resetDecidedValues : Obligations.ResetDecidedValues :=
  ⟨rfl, rfl, rfl, rfl, rfl, rfl, rfl, rfl, rfl, rfl, rfl, by decide⟩

/-- Settles O6: the IDT copy is absent, the lists are empty, and PSR 0 is Kernel Mode with paging off. -/
theorem resetIsGood : Obligations.ResetIsGood where
  mem := rfl
  psr := by decide
  idtc := .inl rfl
  pending := ⟨rfl, nofun⟩
  storedTo := rfl

/-- Settles O13: whichever interrupt is entered, the state is an entered one, so the Previous registers hold the
interrupted context. -/
theorem previousRegistersCopied : Obligations.PreviousRegistersCopied := by
  intro s t c ret henter
  obtain ⟨c', f, hdl, -, -, -, -, rfl, -⟩ := State.enter_next henter
  obtain ⟨hpflagr, -, hppdtr, hptidr, -, -, -⟩ := s.enteredFrom c' ret hdl
  refine ⟨hpflagr, fun hs => ?_⟩
  rw [if_pos hs] at hppdtr hptidr
  exact ⟨hppdtr, hptidr⟩

end Sys2Proof.Machine
end

section
/-! PROOF. Data accesses and the instructions that make them: what a load, a store and a stack instruction answer is what
their access answers, and an access answers by its alignment, its translation and the region of its physical address. -/

namespace Sys2Proof.Machine

/-! ### The physical address after a translation -/

/-- A translation that ends well leaves the registers, the parameters and the notes alone (R84, R92). -/
theorem State.walked_of_translate {s s1 : State} {va pa : Word} {acc : Access} (h : s.translate va acc = .ok pa s1) :
    s.Walked s1 := by
  have hw := State.walked_translate s va acc
  rw [h] at hw
  exact hw

/-- A translation that ends well changes the TLB and the PTEs that the walk reads alone (R84). -/
theorem State.onlyPtes_of_translate {s s1 : State} {va pa : Word} {acc : Access} (h : s.translate va acc = .ok pa s1) :
    s.OnlyPtes s1 (s.pteAddrs va) := by
  have hp := State.translate_onlyPtes s va acc
  rw [h] at hp
  exact hp

/-- A table walk leaves the parameters alone. -/
theorem State.Walked.cfg {s s1 : State} (h : s.Walked s1) : s1.cfg = s.cfg := by rw [h.rest]

/-- A table walk is no store of the program (log 42). -/
theorem State.Walked.storedTo {s s1 : State} (h : s.Walked s1) : s1.storedTo = s.storedTo := by rw [h.rest]

/-- A table walk does not move the I/O region (R61). -/
theorem State.Walked.isIo {s s1 : State} (h : s.Walked s1) (a : Word) : s1.isIo a = s.isIo a :=
  State.isIo_congr h.cfg (by rw [h.rest]) a

/-- A table walk does not move the end of memory (R92). -/
theorem State.Walked.ramTop {s s1 : State} (h : s.Walked s1) : s1.ramTop = s.ramTop :=
  State.ramTop_congr h.cfg (by rw [h.rest])

/-! ### A read or a write at a physical address -/

/-- A byte or a half word of the I/O region is not read (R65). -/
theorem State.readPhys_narrow {s : State} {pa : Word} {w : Width} (hio : s.isIo pa = true) (hw : w ≠ .word) :
    s.readPhys pa w = .fault .alignmentViolation := by
  rw [State.readPhys, if_pos hio, if_neg hw]

/-- A byte or a half word of the I/O region is not written (R65). -/
theorem State.writePhys_narrow {s : State} {pa : Word} {w : Width} (v : Word) (hio : s.isIo pa = true) (hw : w ≠ .word) :
    s.writePhys pa w v = .fault .alignmentViolation := by
  rw [State.writePhys, if_pos hio, if_neg hw]

/-- A read beyond the end of memory is refused (R92; log 24). -/
theorem State.readPhys_unmapped {s : State} {pa : Word} {w : Width} (hio : s.isIo pa = false)
    (hout : s.ramTop < pa.toNat + w.bytes) : s.readPhys pa w = .refuse .unmappedAddress := by
  rw [State.readPhys, hio, if_neg Bool.false_ne_true, if_neg (by omega)]

/-- A write beyond the end of memory is refused (R92; log 24). -/
theorem State.writePhys_unmapped {s : State} {pa : Word} {w : Width} (v : Word) (hio : s.isIo pa = false)
    (hout : s.ramTop < pa.toNat + w.bytes) : s.writePhys pa w v = .refuse .unmappedAddress := by
  rw [State.writePhys, hio, if_neg Bool.false_ne_true, if_neg (by omega)]

/-- A word of the I/O region is read from the device (R65, R242). -/
theorem State.readPhys_io {s : State} {pa : Word} (hio : s.isIo pa = true) : s.readPhys pa .word = s.ioLoad pa := by
  rw [State.readPhys, if_pos hio, if_pos rfl]

/-- A word of the I/O region is written to the device (R65, R242). -/
theorem State.writePhys_io {s : State} {pa : Word} (v : Word) (hio : s.isIo pa = true) :
    s.writePhys pa .word v = s.ioStore pa v := by
  rw [State.writePhys, if_pos hio, if_pos rfl]

/-! ### A read or a write at a logical address -/

theorem aligned_iff {a : Word} {w : Width} : aligned a w = true ↔ a.toNat % w.bytes = 0 := by
  rw [aligned, beq_iff_eq]

/-- A misaligned read ends the run (R64, R66). -/
theorem State.memRead_misaligned {s : State} {va : Word} {w : Width} (ha : va.toNat % w.bytes ≠ 0) :
    s.memRead va w = .fault .alignmentViolation := by
  rw [State.memRead, if_neg (mt aligned_iff.mp ha)]

/-- A misaligned write ends the run (R64, R66). -/
theorem State.memWrite_misaligned {s : State} {va : Word} {w : Width} (v : Word) (ha : va.toNat % w.bytes ≠ 0) :
    s.memWrite va w v = .fault .alignmentViolation := by
  rw [State.memWrite, if_neg (mt aligned_iff.mp ha)]

/-- An aligned read is its translation and then the read at the physical address (R92). -/
theorem State.memRead_aligned {s : State} {va : Word} {w : Width} (ha : va.toNat % w.bytes = 0) :
    s.memRead va w = (s.translate va .read).bind fun pa s1 => s1.readPhys pa w := by
  rw [State.memRead, if_pos (aligned_iff.mpr ha)]

/-- An aligned write is its translation and then the write at the physical address (R92). -/
theorem State.memWrite_aligned {s : State} {va : Word} {w : Width} (v : Word) (ha : va.toNat % w.bytes = 0) :
    s.memWrite va w v = (s.translate va .write).bind fun pa s1 => s1.writePhys pa w v := by
  rw [State.memWrite, if_pos (aligned_iff.mpr ha)]

theorem Res.bind_ok_eq {α β : Type} {x : Res α} {v : α} {s1 : State} (h : x = .ok v s1) (k : α → State → Res β) :
    x.bind k = k v s1 := by rw [h]; rfl

theorem Res.bind_raise_eq {α β : Type} {x : Res α} {c : Cause} {s1 : State} (h : x = .raise c s1)
    (k : α → State → Res β) : x.bind k = .raise c s1 := by rw [h]; rfl

/-! ### The instructions that make a data access -/

/-- `#none` changes nothing (R192). -/
@[simp] theorem afeFunction_zero (c : Config) : afeFunction c 0#4 = some fun v => v := rfl

/-- What a load does with the answer of its access (R143 to R145). -/
theorem exec_loadOf {s : State} {afe : Code} {g : Word → Word} (hg : afeFunction s.cfg afe = some g) (w : Width) (rd : Reg)
    (ea : Operand) : exec (loadOf w afe rd ea) s =
      (s.memRead (s.operand ea) w).finish fun v s1 => .next ((s1.setReg rd (g v)).retire 0#5) := by
  have hexec : exec (loadOf w afe rd ea) s = s.load afe rd ea w := by cases w <;> rfl
  rw [hexec, State.load, State.withAfe_some hg]

/-- What a store does with the answer of its access (R146 to R148). -/
theorem exec_storeOf {s : State} {afe : Code} {g : Word → Word} (hg : afeFunction s.cfg afe = some g) (w : Width) (rd : Reg)
    (ea : Operand) : exec (storeOf w afe rd ea) s =
      (s.memWrite (s.operand ea) w (s.reg rd)).finish fun _ s1 => .next (s1.retire 0#5) := by
  have hexec : exec (storeOf w afe rd ea) s = s.store afe rd ea w := by cases w <;> rfl
  rw [hexec, State.store, State.withAfe_some hg]

/-- What `pop` does with the answer of its access (R151). -/
theorem exec_pop {s : State} {afe : Code} {g : Word → Word} (hg : afeFunction s.cfg afe = some g) (rd : Reg) :
    exec (.pop afe rd) s = (s.memRead s.popAddr .word).finish fun v s1 =>
      .next (({ s1 with spr := s.sprAfterPop }.setReg rd (g v)).retire 0#5) := by
  rw [exec, execPop, State.withAfe_some hg]

/-- The words that `push` and `ppush` push (R150, R152). -/
def State.Pushes (s : State) (afe : Code) (rd : Reg) (i : Instr) (x : Word) : Prop :=
  (i = .push afe rd ∧ x = s.reg rd) ∨ (i = .ppush ∧ x = s.pcr + s.cfg.ppushOffset)

/-- What `push` and `ppush` do with the answer of their access (R149). -/
theorem State.Pushes.exec_eq {s : State} {afe : Code} {g : Word → Word} {rd : Reg} {i : Instr} {x : Word}
    (hg : afeFunction s.cfg afe = some g) (h : s.Pushes afe rd i x) :
    exec i s = (s.memWrite s.pushAddr .word x).finish fun _ s1 => .next ({ s1 with spr := s.sprAfterPush }.retire 0#5) := by
  obtain ⟨rfl, rfl⟩ | ⟨rfl, rfl⟩ := h
  · rw [exec, execPush, State.withAfe_some hg, State.pushWord]
  · rw [exec, execPpush, State.pushWord]

theorem State.pushes_push (s : State) (afe : Code) (rd : Reg) : s.Pushes afe rd (.push afe rd) (s.reg rd) := .inl ⟨rfl, rfl⟩

theorem State.pushes_ppush (s : State) (afe : Code) (rd : Reg) : s.Pushes afe rd .ppush (s.pcr + s.cfg.ppushOffset) :=
  .inr ⟨rfl, rfl⟩

end Sys2Proof.Machine
end

section
/-! PROOF. Big-endian memory, and what the loads, the stores and the stack instructions do where their access ends in
memory. -/

namespace Sys2Proof.Machine

/-! ### Bytes -/

/-- A read of a width holds the bytes it came from (R62). -/
theorem Memory.holdsBytes_readBE (m : Memory) (a : Nat) {n : Nat} (hn : n ≤ 4) : HoldsBytes m a n (m.readBE a n) :=
  fun _ hk => (Memory.extract_readBE m a n _ hn hk).symm

/-- After a write of a width, memory holds its bytes (R62). -/
theorem Memory.holdsBytes_writeBE {m : Memory} (hm : m.wf = true) (a : Nat) {n : Nat} (hn : n ≤ 4) (v : Word) :
    HoldsBytes (m.writeBE a n v) a n v :=
  fun _ hk => Memory.read_writeBE hm a n _ v hk hn

/-- A write changes its own bytes alone (R62). -/
theorem Memory.sameOutside_writeBE (m : Memory) (a n : Nat) (v : Word) : SameOutside m (m.writeBE a n v) a n :=
  fun _ hb => Memory.read_writeBE_outside m a n v hb

/-- A read of the width just written gives the low bits that were stored (R62, R70). -/
theorem Memory.toNat_readBE_writeBE {m : Memory} (hm : m.wf = true) (a n : Nat) (v : Word) :
    ((m.writeBE a n v).readBE a n).toNat = v.toNat % 2 ^ (8 * n) := by
  apply Nat.eq_of_testBit_eq
  intro i
  rw [BitVec.testBit_toNat, Nat.testBit_mod_two_pow, BitVec.testBit_toNat]
  by_cases hi : i < 32
  · exact Memory.getLsbD_readBE_writeBE hm a n v i hi
  · rw [BitVec.getLsbD_of_ge _ i (by omega), BitVec.getLsbD_of_ge v i (by omega), Bool.and_false]

/-- A read of one byte within a word just written gives that byte of it, the most significant first (R62). -/
theorem Memory.toNat_readBE_one_writeBE {m : Memory} (hm : m.wf = true) (a : Nat) (v : Word) {k : Nat} (hk : k < 4) :
    ((m.writeBE a 4 v).readBE (a + k) 1).toNat = v.toNat / 2 ^ (8 * (3 - k)) % 2 ^ 8 := by
  rw [Memory.readBE_one, Memory.read_writeBE hm a 4 k v hk (by omega), BitVec.zeroExtend,
    BitVec.toNat_setWidth_of_le (by omega), BitVec.extractLsb'_toNat, Nat.shiftRight_eq_div_pow]

/-- A read of the second half of a word just written gives its low half (R62). -/
theorem Memory.toNat_readBE_two_writeBE {m : Memory} (hm : m.wf = true) (a : Nat) (v : Word) :
    ((m.writeBE a 4 v).readBE (a + 2) 2).toNat = v.toNat % 2 ^ 16 := by
  have hbyte : ∀ k, k < 4 → (m.writeBE a 4 v).read (a + k) = v.extractLsb' (8 * (3 - k)) 8 := fun k hk =>
    Memory.read_writeBE hm a 4 k v hk (by omega)
  have hhalf : v.extractLsb' 8 8 ++ v.extractLsb' 0 8 = v.extractLsb' 0 16 :=
    BitVec.extractLsb'_append_extractLsb'_eq_extractLsb' (by omega)
  rw [Memory.readBE_two, show a + 2 + 1 = a + 3 from rfl, hbyte 2 (by omega), hbyte 3 (by omega), hhalf, BitVec.zeroExtend,
    BitVec.toNat_setWidth_of_le (by omega), BitVec.extractLsb'_toNat, Nat.shiftRight_zero]

/-- Settles O34: each clause is what one read or one write does to bytes. -/
theorem bigEndianMemory : Obligations.BigEndianMemory := fun m a v hm =>
  ⟨m.readBE_one a, m.readBE_two a, m.readBE_four a,
    fun w => ⟨Memory.holdsBytes_writeBE hm a w.bytes_le v, m.sameOutside_writeBE a w.bytes v⟩,
    Memory.readBE_writeBE_word hm a v, fun _ hk => Memory.toNat_readBE_one_writeBE hm a v hk,
    Memory.toNat_readBE_two_writeBE hm a v⟩

/-! ### Accesses that end in memory -/

/-- A load whose translation ends in memory writes the bytes there to its destination (R92, R143 to R145). -/
theorem State.Translated.exec_loadOf {s s1 : State} {afe : Code} {g : Word → Word} {ea : Operand} {w : Width} {pa : Word}
    (hg : afeFunction s.cfg afe = some g) (h : s.Translated (s.operand ea) .read w pa s1) (rd : Reg) :
    exec (loadOf w afe rd ea) s = .next ((s1.setReg rd (g (s1.mem.readBE pa.toNat w.bytes))).retire 0#5) := by
  rw [Machine.exec_loadOf hg, State.memRead_translated h, Res.finish]

/-- A store whose translation ends in memory stores the low bytes of its register there (R92, R146 to R148). -/
theorem State.Translated.exec_storeOf {s s1 : State} {afe : Code} {g : Word → Word} {ea : Operand} {w : Width} {pa : Word}
    (hg : afeFunction s.cfg afe = some g) (h : s.Translated (s.operand ea) .write w pa s1) (rd : Reg) :
    exec (storeOf w afe rd ea) s = .next ((s1.stored pa w (s.reg rd)).retire 0#5) := by
  rw [Machine.exec_storeOf hg, State.memWrite_translated _ h, Res.finish]

/-- What a store and the end of its instruction leave, after a translation (R74, R92). -/
theorem State.Walked.stored_retire {s s1 : State} (h : s.Walked s1) (pa : Word) (w : Width) (v : Word) :
    (s1.stored pa w v).retire 0#5 =
      { s with mem := (s1.stored pa w v).mem, tlb := s1.tlb, storedTo := (s1.stored pa w v).storedTo, flagr := 0#5,
               pcr := s.pcr + 4#32 } := by
  rw [h.rest]
  rfl

/-- Settles O38: the load completes with the bytes at the physical address, on the state the translation leaves. -/
theorem loadTranslated : Obligations.LoadTranslated := by
  intro s s1 w afe g rd ea pa hg ht
  exact ⟨_, _, ht.exec_loadOf hg rd, s1.wroteReg rd _ 0#5, s1.mem.holdsBytes_readBE pa.toNat w.bytes_le,
    s1.mem.readBE_lt pa.toNat w.bytes, State.onlyPtes_of_translate ht.translation⟩

/-- Settles O39: the store completes with the bytes stored, on the state the translation leaves. -/
theorem storeTranslated : Obligations.StoreTranslated := by
  intro s s1 w afe g rd ea pa hm hg ht
  exact ⟨_, ht.exec_storeOf hg rd, Memory.holdsBytes_writeBE (ht.walked.wf hm) pa.toNat w.bytes_le (s.reg rd),
    s1.mem.sameOutside_writeBE pa.toNat w.bytes (s.reg rd), State.onlyPtes_of_translate ht.translation,
    ht.walked.stored_retire pa w (s.reg rd)⟩

/-- An access that is plain stays plain after a store (R61, R92). -/
theorem State.PlainAccess.stored_retire {s : State} {va : Word} {w : Width} (h : s.PlainAccess va w) (pa : Word)
    (w' : Width) (v : Word) (f : Flags) : ((s.stored pa w' v).retire f).PlainAccess va w :=
  ⟨h.pagingOff, h.aligned, h.memory, h.inside⟩

/-- Settles O37: with paging off the load reads the bytes that the store wrote. -/
theorem storeThenLoad : Obligations.StoreThenLoad := by
  intro s t w rd rd' ea ea' hm hp hstore hea
  rw [(hp.translated .write).exec_storeOf (afeFunction_zero s.cfg) rd] at hstore
  have ht := Host.Outcome.next.inj hstore
  have hload : t.PlainAccess (t.operand ea') w := by
    rw [hea, ← ht]
    exact hp.stored_retire _ w _ 0#5
  refine ⟨_, (hload.translated .read).exec_loadOf (afeFunction_zero t.cfg) rd', ?_⟩
  rw [(t.wroteReg rd' _ 0#5).value, hea, ← ht]
  exact Memory.toNat_readBE_writeBE hm _ w.bytes (s.reg rd)

/-! ### The stack -/

/-- Where a push stores and what it makes of SPR, under each discipline (R149). -/
theorem State.push_discipline (s : State) :
    (s.cfg.stack = .emptyDescending → s.pushAddr = s.spr ∧ s.sprAfterPush = s.spr - 4#32) ∧
    (s.cfg.stack = .emptyAscending → s.pushAddr = s.spr ∧ s.sprAfterPush = s.spr + 4#32) ∧
    (s.cfg.stack = .fullDescending → s.pushAddr = s.spr - 4#32 ∧ s.sprAfterPush = s.spr - 4#32) := by
  refine ⟨fun h => ?_, fun h => ?_, fun h => ?_⟩ <;> simp only [State.pushAddr, State.sprAfterPush, h, and_self]

/-- Where a pop loads and what it makes of SPR, under each discipline (R149). -/
theorem State.pop_discipline (s : State) :
    (s.cfg.stack = .emptyDescending → s.popAddr = s.spr + 4#32 ∧ s.sprAfterPop = s.spr + 4#32) ∧
    (s.cfg.stack = .emptyAscending → s.popAddr = s.spr - 4#32 ∧ s.sprAfterPop = s.spr - 4#32) ∧
    (s.cfg.stack = .fullDescending → s.popAddr = s.spr ∧ s.sprAfterPop = s.spr + 4#32) := by
  refine ⟨fun h => ?_, fun h => ?_, fun h => ?_⟩ <;> simp only [State.popAddr, State.sprAfterPop, h, and_self]

/-- A push whose translation ends in memory stores its word there and moves SPR (R149, R150, R152). -/
theorem State.Pushes.exec_translated {s s1 : State} {afe : Code} {g : Word → Word} {rd : Reg} {i : Instr} {x pa : Word}
    (hg : afeFunction s.cfg afe = some g) (hi : s.Pushes afe rd i x) (h : s.Translated s.pushAddr .write .word pa s1) :
    exec i s = .next { (s1.stored pa .word x).retire 0#5 with spr := s.sprAfterPush } := by
  rw [hi.exec_eq hg, State.memWrite_translated _ h]
  rfl

/-- Settles O42: both instructions push their word where the translation ends, and SPR moves by the discipline. -/
theorem pushResult : Obligations.PushResult := by
  intro s s1 afe g rd pa hm hg ht i x hi
  refine ⟨_, State.Pushes.exec_translated hg hi ht, Memory.holdsBytes_writeBE (ht.walked.wf hm) pa.toNat le_rfl x,
    s1.mem.sameOutside_writeBE pa.toNat 4 x, State.onlyPtes_of_translate ht.translation, ?_, s.push_discipline⟩
  rw [ht.walked.stored_retire pa .word x]

/-- Settles O43: the destination takes the word where the translation ends, and SPR moves by the discipline. -/
theorem popResult : Obligations.PopResult := by
  intro s s1 afe g rd pa hg ht
  have hexec : exec (.pop afe rd) s =
      .next (({ s1 with spr := s.sprAfterPop }.setReg rd (g (s1.mem.readBE pa.toNat 4))).retire 0#5) := by
    rw [exec_pop hg, State.memRead_translated ht]
    rfl
  have hw := State.wroteReg { s1 with spr := s.sprAfterPop } rd (g (s1.mem.readBE pa.toNat 4)) 0#5
  refine ⟨_, _, hexec, s1.mem.holdsBytes_readBE pa.toNat le_rfl, hw.value,
    fun r hr => (hw.others r hr).trans (ht.walked.reg r), ?_, State.onlyPtes_of_translate ht.translation, s.pop_discipline⟩
  rw [← ht.walked.pcr]
  rfl

end Sys2Proof.Machine
end

section
/-! PROOF. Accesses that do not end in memory: those that stop by name, those that go to a device, and those whose
translation raises an interrupt. -/

namespace Sys2Proof.Machine

/-! ### Accesses that stop -/

/-- An aligned read whose translation ends well is the read at the physical address (R92). -/
theorem State.memRead_of_translate {s s1 : State} {va pa : Word} {w : Width} (ha : va.toNat % w.bytes = 0)
    (h : s.translate va .read = .ok pa s1) : s.memRead va w = s1.readPhys pa w := by
  rw [State.memRead_aligned ha, Res.bind_ok_eq h]

/-- An aligned write whose translation ends well is the write at the physical address (R92). -/
theorem State.memWrite_of_translate {s s1 : State} {va pa : Word} {w : Width} (v : Word) (ha : va.toNat % w.bytes = 0)
    (h : s.translate va .write = .ok pa s1) : s.memWrite va w v = s1.writePhys pa w v := by
  rw [State.memWrite_aligned v ha, Res.bind_ok_eq h]

/-- A read that translates to a byte or a half word of the I/O region ends the run (R65, R66). -/
theorem State.memRead_narrow {s s1 : State} {va pa : Word} {w : Width} (ha : va.toNat % w.bytes = 0)
    (h : s.translate va .read = .ok pa s1) (hio : s.isIo pa = true) (hw : w ≠ .word) :
    s.memRead va w = .fault .alignmentViolation := by
  rw [State.memRead_of_translate ha h, State.readPhys_narrow (((State.walked_of_translate h).isIo pa).trans hio) hw]

/-- A write that translates to a byte or a half word of the I/O region ends the run (R65, R66). -/
theorem State.memWrite_narrow {s s1 : State} {va pa : Word} {w : Width} (v : Word) (ha : va.toNat % w.bytes = 0)
    (h : s.translate va .write = .ok pa s1) (hio : s.isIo pa = true) (hw : w ≠ .word) :
    s.memWrite va w v = .fault .alignmentViolation := by
  rw [State.memWrite_of_translate v ha h, State.writePhys_narrow v (((State.walked_of_translate h).isIo pa).trans hio) hw]

/-- A read that translates to an address with no memory is refused (R92; log 24). -/
theorem State.memRead_unmapped {s s1 : State} {va pa : Word} {w : Width} (ha : va.toNat % w.bytes = 0)
    (h : s.translate va .read = .ok pa s1) (hio : s.isIo pa = false) (hout : s.ramTop < pa.toNat + w.bytes) :
    s.memRead va w = .refuse .unmappedAddress := by
  have hw := State.walked_of_translate h
  rw [State.memRead_of_translate ha h, State.readPhys_unmapped ((hw.isIo pa).trans hio) (by rw [hw.ramTop]; exact hout)]

/-- A write that translates to an address with no memory is refused (R92; log 24). -/
theorem State.memWrite_unmapped {s s1 : State} {va pa : Word} {w : Width} (v : Word) (ha : va.toNat % w.bytes = 0)
    (h : s.translate va .write = .ok pa s1) (hio : s.isIo pa = false) (hout : s.ramTop < pa.toNat + w.bytes) :
    s.memWrite va w v = .refuse .unmappedAddress := by
  have hw := State.walked_of_translate h
  rw [State.memWrite_of_translate v ha h,
    State.writePhys_unmapped v ((hw.isIo pa).trans hio) (by rw [hw.ramTop]; exact hout)]

/-! ### Fetches that stop -/

/-- A misaligned fetch ends the run (R64, R66). -/
theorem State.fetch_misaligned {s : State} (ha : s.pcr.toNat % 4 ≠ 0) : s.fetch = .fault .alignmentViolation := by
  rw [State.fetch, if_neg (mt aligned_iff.mp ha)]

/-- An aligned fetch whose translation ends well is the fetch at the physical address (R92). -/
theorem State.fetch_of_translate {s s1 : State} {pa : Word} (ha : s.pcr.toNat % 4 = 0)
    (h : s.translate s.pcr .fetch = .ok pa s1) : s.fetch = s1.fetchPhys pa := by
  rw [State.fetch, if_pos (aligned_iff.mpr ha), Res.bind_ok_eq h]

/-- No instruction is fetched from the I/O region (R63; log 45). -/
theorem State.fetchPhys_io {s : State} {pa : Word} (hio : s.isIo pa = true) : s.fetchPhys pa = .refuse .fetchFromIo := by
  rw [State.fetchPhys, if_pos hio]

/-- No instruction is fetched beyond the end of memory (R92; log 24). -/
theorem State.fetchPhys_unmapped {s : State} {pa : Word} (hio : s.isIo pa = false) (hout : s.ramTop < pa.toNat + 4) :
    s.fetchPhys pa = .refuse .unmappedAddress := by
  rw [State.fetchPhys, hio, if_neg Bool.false_ne_true, if_neg (by omega)]

/-- No instruction is fetched from bytes that the program has stored to (R74; log 44). -/
theorem State.fetchPhys_stored {s : State} {pa : Word} (hio : s.isIo pa = false) (hin : pa.toNat + 4 ≤ s.ramTop)
    (hs : ∃ k, k < 4 ∧ pa.toNat + k ∈ s.storedTo) : s.fetchPhys pa = .refuse .fetchOfStoredBytes := by
  have hany : ((List.range 4).any fun k => s.storedTo.contains (pa.toNat + k)) = true := by simpa using hs
  rw [State.fetchPhys, hio, if_neg Bool.false_ne_true, if_pos hin, if_pos hany]

/-- A misaligned PCR ends the run at the next step that nothing is taken at (R64, R66). -/
theorem State.Undisturbed.step_misaligned {s : State} (hu : s.Undisturbed) (ha : s.pcr.toNat % 4 ≠ 0) :
    step s = .fault .alignmentViolation := by
  rw [hu.step_eq, State.runNext, State.fetch_misaligned (by rw [State.atBoundary_pcr]; exact ha), Res.finish]

/-- A fetch that is refused at its physical address is refused by the step (R63, R74, R92). -/
theorem State.Undisturbed.step_refused {s s1 : State} {pa : Word} {r : Refusal} (hu : s.Undisturbed)
    (ha : s.pcr.toNat % 4 = 0) (h : s.atBoundary.translate s.pcr .fetch = .ok pa s1) (hf : s1.fetchPhys pa = .refuse r) :
    step s = .refused r := by
  rw [← s.atBoundary_pcr] at ha h
  rw [hu.step_eq, State.runNext, State.fetch_of_translate ha h, hf, Res.finish]

/-- Where the I/O region lies (R61). -/
theorem State.isIo_iff (s : State) (pa : Word) :
    s.isIo pa = true ↔ s.cfg.procType = .typeS ∧ s.iosar.toNat ≤ pa.toNat := by
  rw [State.isIo, Bool.and_eq_true, decide_eq_true_eq, State.isS, beq_iff_eq]

/-- Where memory ends (R61, R92). -/
theorem State.ramTop_eq (s : State) :
    s.ramTop = if s.cfg.procType = .typeS then min s.cfg.memSize s.iosar.toNat else s.cfg.memSize := by
  simp only [State.ramTop, State.isS, beq_iff_eq]

/-- Settles O40: an access that stops does so at its alignment, or at its physical address, and the instruction or the step
that makes it stops with it. -/
theorem forbiddenAccessesStop : Obligations.ForbiddenAccessesStop := by
  intro s afe g hg
  refine ⟨fun w rd ea ha => ⟨?_, ?_⟩, fun rd ha => ?_, fun ha => ?_, fun rd ha => ?_, State.Undisturbed.step_misaligned,
    fun hoff va acc => ⟨State.translate_off hoff va acc, State.translate_off ?_ va acc⟩, s.isIo_iff, s.ramTop_eq,
    fun w rd ea pa s1 ha => ⟨fun hio hw => ⟨fun ht => ?_, fun ht => ?_⟩, fun hio hout => ⟨fun ht => ?_, fun ht => ?_⟩⟩,
    fun rd pa s1 hio hout => ⟨fun ha ht => ⟨?_, ?_⟩, fun ha ht => ?_⟩, fun pa s1 hu ha ht => ?_⟩
  · rw [exec_loadOf hg, State.memRead_misaligned ha, Res.finish]
  · rw [exec_storeOf hg, State.memWrite_misaligned _ ha, Res.finish]
  · rw [(s.pushes_push afe rd).exec_eq hg, State.memWrite_misaligned _ ha, Res.finish]
  · rw [(s.pushes_ppush afe 0#5).exec_eq hg, State.memWrite_misaligned _ ha, Res.finish]
  · rw [exec_pop hg, State.memRead_misaligned ha, Res.finish]
  · rw [State.atBoundary_isS, State.atBoundary_psr]
    exact hoff
  · rw [exec_loadOf hg, State.memRead_narrow ha ht hio hw, Res.finish]
  · rw [exec_storeOf hg, State.memWrite_narrow _ ha ht hio hw, Res.finish]
  · rw [exec_loadOf hg, State.memRead_unmapped ha ht hio hout, Res.finish]
  · rw [exec_storeOf hg, State.memWrite_unmapped _ ha ht hio hout, Res.finish]
  · rw [(s.pushes_push afe rd).exec_eq hg, State.memWrite_unmapped (w := .word) _ ha ht hio hout, Res.finish]
  · rw [(s.pushes_ppush afe rd).exec_eq hg, State.memWrite_unmapped (w := .word) _ ha ht hio hout, Res.finish]
  · rw [exec_pop hg, State.memRead_unmapped (w := .word) ha ht hio hout, Res.finish]
  · have hw := State.walked_of_translate ht
    have hio1 : s1.isIo pa = s.isIo pa := (hw.isIo pa).trans (s.atBoundary_isIo pa)
    have htop : s1.ramTop = s.ramTop := hw.ramTop.trans s.atBoundary_ramTop
    have hst : s1.storedTo = s.storedTo := hw.storedTo.trans s.atBoundary_storedTo
    rw [← hio1, ← htop, ← hst]
    exact ⟨fun hio => hu.step_refused ha ht (State.fetchPhys_io hio),
      fun hio hout => hu.step_refused ha ht (State.fetchPhys_unmapped hio hout),
      fun hio hin hs => hu.step_refused ha ht (State.fetchPhys_stored hio hin hs)⟩

/-! ### Accesses that go to a device -/

/-- A unit in S0 answers a load (R242). -/
theorem State.ioLoad_s0 {s : State} {pa : Word} (h : s.unitState (unitOfAddr s.cfg pa) = .s0) :
    s.ioLoad pa = .ok (Config.ioInput s.draws) (s.ioRead pa) := by
  simp only [State.ioLoad, h, State.ioRead]

/-- A unit in I0 answers the load of its cause register, and goes to S0 (R223). -/
theorem State.ioLoad_cause {s : State} {pa : Word} {n : Nat} (h : s.unitState (unitOfAddr s.cfg pa) = .i0 n)
    (hc : (n, pa) ∈ s.cfg.causeRegs) :
    s.ioLoad pa = .ok (Config.ioInput s.draws) ((s.ioRead pa).setUnit (unitOfAddr s.cfg pa) .s0) := by
  have hreg : isCauseReg s.cfg n pa = true := List.contains_iff_mem.mpr hc
  simp only [State.ioLoad, h, hreg, if_true, State.ioRead]

/-- A unit in I0 answers no other load (R223, U19). -/
theorem State.ioLoad_i0 {s : State} {pa : Word} {n : Nat} (h : s.unitState (unitOfAddr s.cfg pa) = .i0 n)
    (hc : (n, pa) ∉ s.cfg.causeRegs) : s.ioLoad pa = .refuse .deviceInI0 := by
  have hreg : ¬ isCauseReg s.cfg n pa = true := mt List.contains_iff_mem.mp hc
  simp only [State.ioLoad, h, if_neg hreg]

/-- A unit in S0 takes a store (R242). -/
theorem State.ioStore_s0 {s : State} {pa : Word} (h : s.unitState (unitOfAddr s.cfg pa) = .s0) (v : Word) :
    s.ioStore pa v = .ok () (s.ioWritten pa v) := by
  simp only [State.ioStore, h, State.ioWritten]

/-- A unit in I0 takes no store (R223, U19). -/
theorem State.ioStore_i0 {s : State} {pa : Word} {n : Nat} (h : s.unitState (unitOfAddr s.cfg pa) = .i0 n) (v : Word) :
    s.ioStore pa v = .refuse .deviceInI0 := by
  simp only [State.ioStore, h]

/-- A word load through a translation that ends in the I/O region is a load from the device (R65, R92). -/
theorem State.IoTranslated.memRead {s s1 : State} {va pa : Word} (h : s.IoTranslated va .read pa s1) :
    s.memRead va .word = s1.ioLoad pa := by
  rw [State.memRead_of_translate h.aligned h.translation, State.readPhys_io h.io]

/-- A word store through a translation that ends in the I/O region is a store to the device (R65, R92). -/
theorem State.IoTranslated.memWrite {s s1 : State} {va pa : Word} (h : s.IoTranslated va .write pa s1) (v : Word) :
    s.memWrite va .word v = s1.ioStore pa v := by
  rw [State.memWrite_of_translate v h.aligned h.translation, State.writePhys_io v h.io]

/-- With paging off, a word access to the I/O region translates to itself (R76). -/
theorem State.ioTranslated_off {s : State} {va : Word} (hoff : s.pagingOff) (ha : va.toNat % 4 = 0)
    (hio : s.isIo va = true) (acc : Access) : s.IoTranslated va acc va s :=
  ⟨ha, State.translate_off hoff va acc, hio⟩

/-- The instructions that load a word, with the address they load from and the SPR they leave (R145, R151). -/
def State.LoadsWord (s : State) (afe : Code) (rd : Reg) (i : Instr) (va x : Word) : Prop :=
  (∃ ea, i = .ld32 afe rd ea ∧ va = s.operand ea ∧ x = s.spr) ∨ (i = .pop afe rd ∧ va = s.popAddr ∧ x = s.sprAfterPop)

/-- The instructions that store a word, with the address, the word and the SPR they leave (R148, R150, R152). -/
def State.StoresWord (s : State) (afe : Code) (rd : Reg) (i : Instr) (va x v : Word) : Prop :=
  (∃ ea, i = .st32 afe rd ea ∧ va = s.operand ea ∧ v = s.reg rd ∧ x = s.spr) ∨
  (i = .push afe rd ∧ va = s.pushAddr ∧ v = s.reg rd ∧ x = s.sprAfterPush) ∨
  (i = .ppush ∧ va = s.pushAddr ∧ v = s.pcr + s.cfg.ppushOffset ∧ x = s.sprAfterPush)

/-- An instruction that loads a word completes with the answer of the access (R145, R151). -/
theorem State.LoadsWord.exec_ok {s t : State} {afe : Code} {g : Word → Word} {rd : Reg} {i : Instr} {va x v : Word}
    (hg : afeFunction s.cfg afe = some g) (hi : s.LoadsWord afe rd i va x) (h : s.memRead va .word = .ok v t) :
    exec i s = .next (({ t with spr := x }.setReg rd (g v)).retire 0#5) := by
  have hspr : t.spr = s.spr := by
    have hacc := State.accessed_memRead s va .word
    rw [h] at hacc
    rw [hacc.rest]
  obtain ⟨ea, rfl, rfl, rfl⟩ | ⟨rfl, rfl, rfl⟩ := hi
  · refine (exec_loadOf hg .word rd ea).trans ?_
    rw [h, ← hspr]
    rfl
  · rw [exec_pop hg, h]
    rfl

/-- An instruction that loads a word is refused where its access is (R223). -/
theorem State.LoadsWord.exec_refuse {s : State} {afe : Code} {g : Word → Word} {rd : Reg} {i : Instr} {va x : Word}
    {r : Refusal} (hg : afeFunction s.cfg afe = some g) (hi : s.LoadsWord afe rd i va x)
    (h : s.memRead va .word = .refuse r) : exec i s = .refused r := by
  obtain ⟨ea, rfl, rfl, rfl⟩ | ⟨rfl, rfl, rfl⟩ := hi
  · exact (exec_loadOf hg .word rd ea).trans (by rw [h, Res.finish])
  · rw [exec_pop hg, h, Res.finish]

/-- An instruction that stores a word completes where its access does (R148, R150, R152). -/
theorem State.StoresWord.exec_ok {s t : State} {afe : Code} {g : Word → Word} {rd : Reg} {i : Instr} {va x v : Word}
    (hg : afeFunction s.cfg afe = some g) (hi : s.StoresWord afe rd i va x v) (h : s.memWrite va .word v = .ok () t) :
    exec i s = .next { t with spr := x, flagr := 0#5, pcr := s.pcr + 4#32 } := by
  obtain ⟨hspr, hpcr⟩ : t.spr = s.spr ∧ t.pcr = s.pcr := by
    have hacc := State.accessed_memWrite s va .word v
    rw [h] at hacc
    rw [hacc.rest]
    exact ⟨rfl, rfl⟩
  rw [← hpcr]
  obtain ⟨ea, rfl, rfl, rfl, rfl⟩ | ⟨rfl, rfl, rfl, rfl⟩ | ⟨rfl, rfl, rfl, rfl⟩ := hi
  · refine (exec_storeOf hg .word rd ea).trans ?_
    rw [h, ← hspr]
    rfl
  · rw [(s.pushes_push afe rd).exec_eq hg, h]
    rfl
  · rw [(s.pushes_ppush afe rd).exec_eq hg, h]
    rfl

/-- An instruction that stores a word is refused where its access is (R223). -/
theorem State.StoresWord.exec_refuse {s : State} {afe : Code} {g : Word → Word} {rd : Reg} {i : Instr} {va x v : Word}
    {r : Refusal} (hg : afeFunction s.cfg afe = some g) (hi : s.StoresWord afe rd i va x v)
    (h : s.memWrite va .word v = .refuse r) : exec i s = .refused r := by
  obtain ⟨ea, rfl, rfl, rfl, rfl⟩ | ⟨rfl, rfl, rfl, rfl⟩ | ⟨rfl, rfl, rfl, rfl⟩ := hi
  · exact (exec_storeOf hg .word rd ea).trans (by rw [h, Res.finish])
  · rw [(s.pushes_push afe rd).exec_eq hg, h, Res.finish]
  · rw [(s.pushes_ppush afe rd).exec_eq hg, h, Res.finish]

/-- Settles O41: a word access to the I/O region is the device's answer, by the state of its unit, and each instruction
completes or is refused with it. -/
theorem ioAccess : Obligations.IoAccess := by
  intro s afe g rd hg
  refine ⟨fun va acc hoff ha hio => State.ioTranslated_off hoff ha hio acc,
    fun va acc pa s1 ht => State.onlyPtes_of_translate ht.translation, fun i va pa x s1 ht hi => ?_,
    fun i va pa x v s1 ht hi => ?_⟩
  · have hmem := ht.memRead
    rw [← (State.walked_of_translate ht.translation).cfg]
    refine ⟨fun hu => ?_, fun n hu => ⟨fun hc => ?_, fun hc => ?_⟩⟩
    · rw [State.ioLoad_s0 hu] at hmem
      exact ⟨_, _, State.LoadsWord.exec_ok hg hi hmem, State.wroteReg _ rd _ 0#5⟩
    · rw [State.ioLoad_i0 hu hc] at hmem
      exact State.LoadsWord.exec_refuse hg hi hmem
    · rw [State.ioLoad_cause hu hc] at hmem
      exact ⟨_, _, State.LoadsWord.exec_ok hg hi hmem, State.wroteReg _ rd _ 0#5⟩
  · have hmem := ht.memWrite v
    rw [← (State.walked_of_translate ht.translation).cfg]
    refine ⟨fun hu => ?_, fun n hu => ?_⟩
    · rw [State.ioStore_s0 hu] at hmem
      exact State.StoresWord.exec_ok hg hi hmem
    · rw [State.ioStore_i0 hu] at hmem
      exact State.StoresWord.exec_refuse hg hi hmem

/-! ### Accesses whose translation raises an interrupt -/

/-- An aligned read whose translation raises an interrupt raises it (R222). -/
theorem State.memRead_of_raise {s s1 : State} {va : Word} {w : Width} {c : Cause} (ha : va.toNat % w.bytes = 0)
    (h : s.translate va .read = .raise c s1) : s.memRead va w = .raise c s1 := by
  rw [State.memRead_aligned ha, Res.bind_raise_eq h]

/-- An aligned write whose translation raises an interrupt raises it (R222). -/
theorem State.memWrite_of_raise {s s1 : State} {va : Word} {w : Width} {c : Cause} (v : Word) (ha : va.toNat % w.bytes = 0)
    (h : s.translate va .write = .raise c s1) : s.memWrite va w v = .raise c s1 := by
  rw [State.memWrite_aligned v ha, Res.bind_raise_eq h]

/-- A translation that raises an interrupt does so under a paging mode that is in force, and has changed the TLB and the
bytes of the first PTE alone (R84, R222). -/
theorem State.frame_of_raise {s s1 : State} {va : Word} {acc : Access} {c : Cause} (h : s.translate va acc = .raise c s1) :
    s1 = { s with mem := s1.mem, tlb := s1.tlb } ∧
    ∃ geo, pagingOf s.cfg (psrMmuMod s.psr) (psrMmuPs s.psr) = some geo ∧
      SameOutside s.mem s1.mem (s.firstPteAddr va geo).toNat 4 := by
  have hp := State.translate_onlyPtes s va acc
  rw [h] at hp
  obtain ⟨hrest, hmem, -⟩ := hp
  refine ⟨hrest, ?_⟩
  by_cases hoff : s.isS = false ∨ psrMmuMod s.psr = 0b00#2
  · rw [State.translate_off hoff] at h
    cases h
  · cases hgeo : pagingOf s.cfg (psrMmuMod s.psr) (psrMmuPs s.psr) with
    | none =>
      simp only [State.translate, if_neg hoff, hgeo] at h
      cases h
    | some geo =>
      refine ⟨geo, rfl, fun b hb => hmem b fun a ha => ?_⟩
      have hfirst : a = s.firstPteAddr va geo := by
        simpa only [State.pteAddrs, if_neg hoff, hgeo, List.take_succ_cons, List.take_zero, List.mem_singleton] using ha
      rw [hfirst]
      exact hb

/-- Settles O60: the raised interrupt passes through the access to the instruction, which enters it with PCR saved. -/
theorem translationFaultIsEntered : Obligations.TranslationFaultIsEntered := by
  intro s s1 c afe g rd hg
  have hpcr : ∀ {va acc}, s.translate va acc = .raise c s1 → s.pcr = s1.pcr := fun {va acc} h => by
    rw [(State.frame_of_raise h).1]
  refine ⟨fun w ea ha => ⟨fun ht => ?_, fun ht => ?_⟩, fun ha ht => ⟨?_, ?_⟩, fun ha ht => ?_,
    fun va acc => State.frame_of_raise⟩
  · rw [exec_loadOf hg, State.memRead_of_raise ha ht, Res.finish, hpcr ht]
  · rw [exec_storeOf hg, State.memWrite_of_raise _ ha ht, Res.finish, hpcr ht]
  · rw [(s.pushes_push afe rd).exec_eq hg, State.memWrite_of_raise _ ha ht, Res.finish, hpcr ht]
  · rw [(s.pushes_ppush afe rd).exec_eq hg, State.memWrite_of_raise _ ha ht, Res.finish, hpcr ht]
  · rw [exec_pop hg, State.memRead_of_raise ha ht, Res.finish, hpcr ht]

end Sys2Proof.Machine
end

section
/-! PROOF. Paging: the tables of page sizes and permissions, where in memory a walk finds its PTEs, and what a walk does
where the TLB agrees with memory. -/

namespace Sys2Proof.Machine

/-! ### The tables -/

/-- The data accesses that a PP code grants: in Kernel Mode every read, and every write unless PP = 01; in User Mode a read
where PP = 10 or 11, and a write where PP = 11 (R82). -/
theorem permits_of_ptePP {e : Word} {pp : BitVec 2} (h : ptePP e = pp) :
    permits false .read e = true ∧ permits false .write e = (pp != 0b01#2) ∧
    permits true .read e = (pp == 0b10#2 || pp == 0b11#2) ∧ permits true .write e = (pp == 0b11#2) := by
  rw [← h]
  exact ⟨rfl, rfl, rfl, rfl⟩

/-- A page may be fetched from where EX = 1 and the mode may read (R83; log 41). -/
theorem permits_fetch (user : Bool) (e : Word) : permits user .fetch e = (pteEX e && permits user .read e) := rfl

/-- Settles O57: the geometry is a finite table, and the permissions are those of PP. -/
theorem pagingTables : Obligations.PagingTables := by
  refine ⟨by decide, by decide, fun e => ⟨permits_of_ptePP, permits_of_ptePP, permits_of_ptePP, permits_of_ptePP,
    fun user => ?_⟩⟩
  rw [permits_fetch, Bool.and_eq_true, pteEX]

/-! ### The flush and `sync` -/

/-- What the flush leaves is the entries of global pages (R86). -/
theorem mem_tlbFlushed {tlb : List TlbEntry} {t : TlbEntry} : t ∈ tlbFlushed tlb ↔ t ∈ tlb ∧ t.pte.getLsbD 7 = true := by
  rw [tlbFlushed, List.mem_filter, pteG]

/-- Settles O55: the flush runs in Kernel Mode and filters the TLB, and `sync` does no more than retire. -/
theorem tlbFlushAndSync : Obligations.TlbFlushAndSync := by
  intro s hs
  refine ⟨fun hk => ⟨{ s with tlb := tlbFlushed s.tlb }.retire 0#5, ?_, fun _ => mem_tlbFlushed, rfl⟩, ?_⟩
  · rw [exec, execTlbFlush, State.onlyS_typeS hs, State.priv_kernel hk]
  · rw [exec, execSync, State.onlyS_typeS hs]
    rfl

/-! ### Fields of a word as numbers -/

/-- The mask of the low bits keeps the remainder. -/
theorem toNat_and_lowMask (v : Word) {k : Nat} (hk : k < 32) : (v &&& lowMask k).toNat = v.toNat % 2 ^ k := by
  have hpow : 2 ^ k < 2 ^ 32 := Nat.pow_lt_pow_right (by omega) hk
  have hpos : 0 < 2 ^ k := Nat.two_pow_pos k
  have hmask : (lowMask k).toNat = 2 ^ k - 1 := by
    have h1 : (1#32 <<< k).toNat = 2 ^ k := by
      rw [BitVec.toNat_shiftLeft, BitVec.toNat_ofNat, Nat.shiftLeft_eq, Nat.one_mod_eq_one.mpr (by omega), one_mul,
        Nat.mod_eq_of_lt hpow]
    rw [lowMask, BitVec.toNat_sub_of_le (by rw [BitVec.le_def, h1]; exact hpos), h1]
    rfl
  rw [BitVec.toNat_and, hmask, Nat.and_two_pow_sub_one_eq_mod]

/-- The mask of the low bits, bit by bit. -/
theorem getLsbD_and_lowMask (v : Word) {k : Nat} (hk : k < 32) (i : Nat) :
    (v &&& lowMask k).getLsbD i = (decide (i < k) && v.getLsbD i) := by
  rw [← BitVec.testBit_toNat, toNat_and_lowMask v hk, Nat.testBit_mod_two_pow, BitVec.testBit_toNat]

/-- A shift to the right and back clears the low bits. -/
theorem getLsbD_clearLow (v : Word) (k i : Nat) : ((v >>> k) <<< k).getLsbD i = (decide (k ≤ i) && v.getLsbD i) := by
  by_cases hi : i < 32
  · by_cases hk : k ≤ i
    · simp [hi, hk, show ¬ i < k by omega]
    · simp [hk, show i < k by omega]
  · rw [BitVec.getLsbD_of_ge _ i (by omega), BitVec.getLsbD_of_ge v i (by omega), Bool.and_false]

/-- The physical address through a page of `2 ^ k` bytes: the page index of the PTE above the offset (R87, R88). -/
theorem pageAddr_eq_append (e va : Word) {k n : Nat} (h : n + k = 32) (hk : k < 32) :
    pageAddr k e va = (e.extractLsb' k n ++ va.extractLsb' 0 k).cast h := by
  apply BitVec.eq_of_getLsbD_eq
  intro i hi
  rw [pageAddr, BitVec.getLsbD_or, getLsbD_clearLow, getLsbD_and_lowMask va hk, BitVec.getLsbD_cast,
    BitVec.getLsbD_append, BitVec.getLsbD_extractLsb', BitVec.getLsbD_extractLsb']
  by_cases hlow : i < k
  · simp [hlow]
  · simp [hlow, show k ≤ i by omega, show i - k < n by omega, show k + (i - k) = i by omega]

/-- A field is what a shift and a mask leave of a word. -/
theorem ushiftRight_and_lowMask (v : Word) (k : Nat) {n : Nat} (hn : n < 32) :
    (v >>> k) &&& lowMask n = (v.extractLsb' k n).zeroExtend 32 := by
  apply BitVec.eq_of_toNat_eq
  rw [toNat_and_lowMask _ hn, BitVec.zeroExtend, BitVec.toNat_setWidth_of_le (by omega), BitVec.extractLsb'_toNat,
    BitVec.toNat_ushiftRight]

/-- The high field of a word is what a shift leaves of it. -/
theorem ushiftRight_eq_extract (v : Word) {k n : Nat} (h : k + n = 32) :
    v >>> k = (v.extractLsb' k n).zeroExtend 32 := by
  apply BitVec.eq_of_getLsbD_eq
  intro i hi
  rw [BitVec.getLsbD_ushiftRight, BitVec.zeroExtend, BitVec.getLsbD_setWidth, BitVec.getLsbD_extractLsb']
  by_cases hn : i < n
  · simp [hi, hn]
  · rw [BitVec.getLsbD_of_ge v _ (by omega)]
    simp [hn]

/-- A shift by two bits is a multiplication by the size of a PTE. -/
theorem shiftLeft_two (v : Word) : v <<< 2 = 4#32 * v := by
  apply BitVec.eq_of_toNat_eq
  rw [BitVec.toNat_shiftLeft, BitVec.toNat_mul, Nat.shiftLeft_eq, Nat.mul_comm]
  rfl

/-! ### Two levels of 4 KB pages -/

/-- Two levels of 4 KB pages (R78). -/
def pages4K : Geometry := ⟨true, 10, 12⟩

/-- The first PTE is the one that the high ten bits of the address number (R80). -/
theorem State.firstPteAddr_4K (s : State) (va : Word) :
    s.firstPteAddr va pages4K = s.tableBase + 4#32 * (va.extractLsb' 22 10).zeroExtend 32 := by
  have hindex : va >>> 22 = (va.extractLsb' 22 10).zeroExtend 32 := ushiftRight_eq_extract va rfl
  rw [State.firstPteAddr, shiftLeft_two, ← hindex]
  rfl

/-- The second PTE is the one that the next ten bits number, in the table the first PTE points to (R80, R88). -/
theorem secondPteAddr_4K (e va : Word) : secondPteAddr va pages4K (tableOf pages4K e) =
    (e.extractLsb' 12 20 ++ 0#12) + 4#32 * (va.extractLsb' 12 10).zeroExtend 32 := by
  have htable : tableOf pages4K e = e.extractLsb' 12 20 ++ 0#12 := by
    apply BitVec.eq_of_getLsbD_eq
    intro i hi
    rw [tableOf, pages4K, getLsbD_clearLow, BitVec.getLsbD_append, BitVec.getLsbD_extractLsb']
    by_cases h : i < 12
    · simp [h]
    · simp [h, show 12 ≤ i by omega, show i - 12 < 20 by omega]
  have hindex : va >>> 12 &&& lowMask 10 = (va.extractLsb' 12 10).zeroExtend 32 :=
    ushiftRight_and_lowMask va 12 (by decide)
  rw [secondPteAddr, htable, shiftLeft_two, ← hindex]
  rfl

/-- The physical address through a 4 KB page (R88). -/
theorem pageAddr_4K (e va : Word) : pageAddr 12 e va = e.extractLsb' 12 20 ++ va.extractLsb' 0 12 :=
  pageAddr_eq_append e va rfl (by decide)

/-- The physical address through a page of extended size, 4 MB (R87). -/
theorem pageAddr_extended (e va : Word) : pageAddr 22 e va = e.extractLsb' 22 10 ++ va.extractLsb' 0 22 :=
  pageAddr_eq_append e va rfl (by decide)

/-- A PTE of a 4 KB page has no bits between its index and its flags (R80). -/
theorem pteMiddleClear_4K (e : Word) : pteMiddleClear 12 e = true := by
  rw [pteMiddleClear, beq_iff_eq]
  apply BitVec.eq_of_toNat_eq
  rw [toNat_and_lowMask _ (by omega), Nat.sub_self, pow_zero, Nat.mod_one]
  rfl

/-- The bits of a PTE of extended size that must be 0 (R87, U8). -/
theorem pteMiddleClear_extended {e : Word} (h : e.extractLsb' 12 10 = 0#10) : pteMiddleClear 22 e = true := by
  rw [pteMiddleClear, beq_iff_eq, ushiftRight_and_lowMask e 12 (by decide), h]
  rfl

/-- Two addresses of PTEs that differ name words that do not overlap: the tables are aligned (R79, R80). -/
theorem pteAddrs_disjoint {a b : Word} (ha : a.toNat % 4 = 0) (hb : b.toNat % 4 = 0) (h : a ≠ b) :
    a.toNat + 4 ≤ b.toNat ∨ b.toNat + 4 ≤ a.toNat := by
  have hne : a.toNat ≠ b.toNat := mt BitVec.eq_of_toNat_eq h
  omega

/-- A second-level table is aligned: it begins at a page (R88). -/
theorem table_aligned (index : BitVec 20) : (index ++ 0#12).toNat % 4 = 0 := by
  rw [BitVec.toNat_append, Nat.shiftLeft_eq]
  simp
  omega

/-- An entry of an aligned table is aligned (R80). -/
theorem pteAddr_aligned {table : Word} (h : table.toNat % 4 = 0) (index : Word) :
    (table + 4#32 * index).toNat % 4 = 0 := by
  rw [BitVec.toNat_add, BitVec.toNat_mul, BitVec.toNat_ofNat]
  omega

end Sys2Proof.Machine
end

section
/-! PROOF. A walk of two levels of 4 KB pages where every copy of its PTEs in the TLB is what memory holds: what it answers,
and that the TLB and memory stay in step. -/

namespace Sys2Proof.Machine

/-! ### A PTE in step -/

/-- Memory holds the PTE `e` at `a`, and every copy of it in the TLB, under whatever ASID, is `e` (R84, R98). -/
structure State.PteInStep (s : State) (a e : Word) : Prop where
  held : s.physRead a = some e
  copies : ∀ t ∈ s.tlb, t.addr = a → t.pte = e

/-- A physical read answers where its bytes are in memory, and answers those bytes (R92). -/
theorem State.physRead_eq_some {s : State} {a e : Word} :
    s.physRead a = some e ↔ a.toNat + 4 ≤ s.ramTop ∧ s.mem.readBE a.toNat 4 = e := by
  rw [State.physRead]
  split <;> simp [*]

/-- A PTE that is in step is read, and is not stale (R80, R98). -/
theorem State.PteInStep.fetchPte {s : State} {a e : Word} (h : s.PteInStep a e) : s.fetchPte a = .ok e s := by
  have hfresh : ¬ tlbStale s.tlb (tidrAsid s.tidr) a e = true := by
    simp only [tlbStale, List.any_eq_true, Bool.and_eq_true, beq_iff_eq, bne_iff_ne, not_exists, not_and, not_not]
    exact fun t ht hta => h.copies t ht hta.1
  simp only [State.fetchPte, h.held, if_neg hfresh]

/-- The write-back of a PTE keeps it in step, with its new value (R84). -/
theorem State.PteInStep.writePte {s : State} {a e : Word} (hm : s.mem.wf = true) (h : s.PteInStep a e) (e' : Word) :
    (s.writePte a e e').PteInStep a e' where
  held := by
    obtain ⟨hin, hread⟩ := State.physRead_eq_some.mp h.held
    refine State.physRead_eq_some.mpr ⟨hin, ?_⟩
    rw [State.writePte_mem]
    split
    · rw [hread, ‹e' = e›]
    · exact Memory.readBE_writeBE_word hm _ e'
  copies := fun _ ht hta => pte_of_mem_tlbRecord h.copies ht hta

/-- The write-back of a PTE keeps another in step, with the value it had (R84). -/
theorem State.PteInStep.writePte_other {s : State} {a b f : Word} (h : s.PteInStep b f) (e e' : Word)
    (hd : b.toNat + 4 ≤ a.toNat ∨ a.toNat + 4 ≤ b.toNat) : (s.writePte a e e').PteInStep b f where
  held := by
    obtain ⟨hin, hread⟩ := State.physRead_eq_some.mp h.held
    refine State.physRead_eq_some.mpr ⟨hin, ?_⟩
    rw [State.writePte_mem, ← hread]
    split
    · rfl
    · exact Memory.readBE_writeBE_outside s.mem e' hd
  copies := fun t ht htb => by
    have hne : t.addr ≠ a := fun hta => by rw [← htb, ← hta] at hd; omega
    exact h.copies t (mem_of_mem_tlbRecord ht hne) htb

/-! ### The end of a walk -/

/-- A final PTE that permits the access gives the physical address, and gets its flags (R84, R88). -/
theorem State.finalPte_permitted {s : State} {acc : Access} {k : Nat} {e : Word} (hmid : pteMiddleClear k e = true)
    (hp : permits s.userMode acc e = true) (va a : Word) :
    s.finalPte va acc k a e = .ok (pageAddr k e va) (s.writePte a e (pteTouched true acc e)) := by
  simp [State.finalPte, hmid, hp]

/-- A final PTE that does not permit the access raises 41 with the address (R91). -/
theorem State.finalPte_forbidden {s : State} {acc : Access} {k : Nat} {e : Word} (hmid : pteMiddleClear k e = true)
    (hp : permits s.userMode acc e = false) (va a : Word) :
    s.finalPte va acc k a e = .raise (privilegeError va) (s.writePte a e e) := by
  simp [State.finalPte, hmid, hp]

/-- The flags that a final PTE gets: A, and D for a write (R84). -/
theorem pteTouched_final (acc : Access) (e : Word) : pteTouched true acc e = e ||| if acc = .write then 6#32 else 2#32 := by
  cases acc <;> rfl

/-- The bits that a page fault puts in FI1R: invalid, user, write, fetch (R90). -/
theorem pageFault_eq (user : Bool) (acc : Access) (va : Word) :
    ∃ bits, pageFault user acc va = ⟨40, some va, some bits⟩ ∧
      bits.toNat = 8 + (if user then 4 else 0) + (if acc = .write then 2 else 0) + (if acc = .fetch then 1 else 0) := by
  refine ⟨_, rfl, ?_⟩
  cases user <;> cases acc <;> rfl

/-- A write-back of the value that is there changes the TLB alone (R98). -/
theorem State.writePte_self (s : State) (a e : Word) : s.writePte a e e = { s with tlb := (s.writePte a e e).tlb } := by
  simp [State.writePte]

/-! ### A walk of two levels of 4 KB pages -/

/-- Translation is on, by two levels of 4 KB pages, and the first table is aligned (R75, R76, R77, R79). -/
structure State.TwoLevel4K (s : State) : Prop where
  isS : s.isS = true
  mode : s.psr.extractLsb' 0 2 = 0b10#2
  pageSize : s.psr.extractLsb' 7 3 = 0b001#3
  modeSupported : s.cfg.mmuMods.contains 0b10#2 = true
  pageSizeSupported : s.cfg.mmuPageSizes.contains 0b001#3 = true
  base : s.tableBase.toNat % 4096 = 0

/-- A translation whose first PTE is in step: a page fault where it is invalid, else what it leads to (R75, R79). -/
theorem State.TwoLevel4K.translate_eq {s : State} (h : s.TwoLevel4K) {va e : Word}
    (hp : s.PteInStep (s.firstPteAddr va pages4K) e) (acc : Access) :
    s.translate va acc =
      if pteV e = false then .raise (pageFault s.userMode acc va) s
      else s.walkFirst va acc pages4K (s.firstPteAddr va pages4K) e := by
  have hmode : psrMmuMod s.psr = 0b10#2 := h.mode
  have hsize : psrMmuPs s.psr = 0b001#3 := h.pageSize
  have hpages : pagingOf s.cfg 0b10#2 0b001#3 = some pages4K := by
    rw [pagingOf, h.modeSupported, h.pageSizeSupported]
    rfl
  have hbase : s.tableBase &&& lowMask pages4K.offsetBits = 0#32 :=
    BitVec.eq_of_toNat_eq ((toNat_and_lowMask s.tableBase (by decide)).trans h.base)
  simp only [State.translate, h.isS, hmode, hsize, hpages, State.walk, hbase, hp.fetchPte, Res.bind]
  simp [pages4K]

/-- A translation whose first PTE is invalid is a page fault (R90). -/
theorem State.TwoLevel4K.translate_invalid {s : State} (h : s.TwoLevel4K) {va e : Word}
    (hp : s.PteInStep (s.firstPteAddr va pages4K) e) (hv : pteV e = false) (acc : Access) :
    s.translate va acc = .raise (pageFault s.userMode acc va) s := by
  rw [h.translate_eq hp, if_pos hv]

/-- A translation whose first PTE is valid is what that PTE leads to (R87, R88). -/
theorem State.TwoLevel4K.translate_valid {s : State} (h : s.TwoLevel4K) {va e : Word}
    (hp : s.PteInStep (s.firstPteAddr va pages4K) e) (hv : pteV e = true) (acc : Access) :
    s.translate va acc = s.walkFirst va acc pages4K (s.firstPteAddr va pages4K) e := by
  rw [h.translate_eq hp, hv, if_neg (by decide)]

/-- A first PTE that leads to a table, with the rights of one, gets A, and the walk goes on there (R84, R88; log 41). -/
theorem State.walkFirst_table {s : State} {e : Word} (hpe : ptePE e = false) (hpp : ptePP e = 0b11#2)
    (hex : pteEX e = true) (va : Word) (acc : Access) (a : Word) :
    s.walkFirst va acc pages4K a e =
      (s.writePte a e (e ||| 2#32)).walkSecond va acc pages4K (tableOf pages4K e) := by
  have hmid : pteMiddleClear pages4K.offsetBits e = true := pteMiddleClear_4K e
  simp [State.walkFirst, hpe, hmid, hpp, hex, pteTouched]

/-- A first PTE of extended size is the final one (R87). -/
theorem State.walkFirst_extended {s : State} {e : Word} (hpe : ptePE e = true) (va : Word) (acc : Access) (a : Word) :
    s.walkFirst va acc pages4K a e = s.finalPte va acc 22 a e := by
  rw [State.walkFirst, if_pos hpe]
  rfl

/-- The second level of a walk, where its PTE is invalid, is a page fault (R90). -/
theorem State.PteInStep.walkSecond_invalid {s : State} {va table e : Word} {g : Geometry}
    (h : s.PteInStep (secondPteAddr va g table) e) (hv : pteV e = false) (acc : Access) :
    s.walkSecond va acc g table = .raise (pageFault s.userMode acc va) s := by
  rw [State.walkSecond, Res.bind_ok_eq h.fetchPte, if_pos hv]

/-- The second level of a walk, where its PTE is valid, ends at it (R88). -/
theorem State.PteInStep.walkSecond_valid {s : State} {va table e : Word} {g : Geometry}
    (h : s.PteInStep (secondPteAddr va g table) e) (hv : pteV e = true) (hpe : ptePE e = false) (acc : Access) :
    s.walkSecond va acc g table = s.finalPte va acc g.offsetBits (secondPteAddr va g table) e := by
  rw [State.walkSecond, Res.bind_ok_eq h.fetchPte, hv, hpe, if_neg (by decide), if_neg (by decide)]

/-- Settles O59: a walk that ends at its first PTE faults there, or ends at it as its final PTE. -/
theorem translationFaults : Obligations.TranslationFaults := by
  intro s va acc a1 e1 hm hs hmode hsize hmods hsizes hbase ha1 hread hcopies
  have h4K : s.TwoLevel4K := ⟨hs, hmode, hsize, hmods, hsizes, hbase⟩
  obtain rfl : a1 = s.firstPteAddr va pages4K := by rw [ha1, s.firstPteAddr_4K]
  have hp : s.PteInStep (s.firstPteAddr va pages4K) e1 := ⟨hread, hcopies⟩
  refine ⟨fun hv => ?_, fun hv hpe hmid hperm => ?_, fun hv hpe hmid hperm => ?_⟩
  · obtain ⟨bits, hcause, hbits⟩ := pageFault_eq s.userMode acc va
    exact ⟨bits, by rw [h4K.translate_invalid hp hv, hcause], hbits⟩
  · refine ⟨_, ?_, s.writePte_self (s.firstPteAddr va pages4K) e1⟩
    rw [h4K.translate_valid hp hv, State.walkFirst_extended hpe,
      State.finalPte_forbidden (pteMiddleClear_extended hmid) hperm, privilegeError]
  · refine ⟨s.writePte (s.firstPteAddr va pages4K) e1 (pteTouched true acc e1), ?_, rfl, ?_, fun b hb => ?_⟩
    · rw [h4K.translate_valid hp hv, State.walkFirst_extended hpe,
        State.finalPte_permitted (pteMiddleClear_extended hmid) hperm, pageAddr_extended]
    · rw [(hp.writePte hm _).held, pteTouched_final]
    · exact s.touched_writePte _ _ _ b (by simpa using hb)

/-- The state after a walk of two levels: nothing has changed but the TLB and the two PTEs, which are in step. -/
structure State.TwoPtes (s t : State) (a1 e1 a2 e2 : Word) : Prop where
  rest : t = { s with mem := t.mem, tlb := t.tlb }
  first : t.PteInStep a1 e1
  second : t.PteInStep a2 e2
  outside : ∀ b, (b < a1.toNat ∨ a1.toNat + 4 ≤ b) → (b < a2.toNat ∨ a2.toNat + 4 ≤ b) → t.mem.read b = s.mem.read b

/-- Every copy of the two PTEs in the TLB is what memory holds (R84). -/
theorem State.TwoPtes.copies {s t : State} {a1 e1 a2 e2 : Word} (h : s.TwoPtes t a1 e1 a2 e2) :
    ∀ x ∈ t.tlb, (x.addr = a1 → t.physRead a1 = some x.pte) ∧ (x.addr = a2 → t.physRead a2 = some x.pte) :=
  fun x hx => ⟨fun ha => by rw [h.first.copies x hx ha, h.first.held], fun ha => by
    rw [h.second.copies x hx ha, h.second.held]⟩

/-- The write-back of the first PTE (R84). -/
theorem State.twoPtes_first {s : State} {a1 e1 a2 e2 : Word} (hm : s.mem.wf = true) (h1 : s.PteInStep a1 e1)
    (h2 : s.PteInStep a2 e2) (hd : a2.toNat + 4 ≤ a1.toNat ∨ a1.toNat + 4 ≤ a2.toNat) (e1' : Word) :
    s.TwoPtes (s.writePte a1 e1 e1') a1 e1' a2 e2 where
  rest := rfl
  first := h1.writePte hm e1'
  second := h2.writePte_other e1 e1' hd
  outside := fun b hb _ => s.touched_writePte a1 e1 e1' b (by simpa using hb)

/-- The write-back of the second PTE after it (R84). -/
theorem State.TwoPtes.second_writePte {s t : State} {a1 e1 a2 e2 : Word} (h : s.TwoPtes t a1 e1 a2 e2)
    (hm : t.mem.wf = true) (hd : a2.toNat + 4 ≤ a1.toNat ∨ a1.toNat + 4 ≤ a2.toNat) (e2' : Word) :
    s.TwoPtes (t.writePte a2 e2 e2') a1 e1 a2 e2' where
  rest := by rw [h.rest]; rfl
  first := h.first.writePte_other e2 e2' hd.symm
  second := h.second.writePte hm e2'
  outside := fun b hb1 hb2 => (t.touched_writePte a2 e2 e2' b (by simpa using hb2)).trans (h.outside b hb1 hb2)

/-- The table base by mode (R79). -/
theorem State.tableBase_eq (s : State) :
    (s.psr.extractLsb' 5 2 = 0b00#2 → s.tableBase = s.kpdtr) ∧ (s.psr.extractLsb' 5 2 = 0b11#2 → s.tableBase = s.pdtr) := by
  refine ⟨fun h => ?_, fun h => ?_⟩ <;> simp [State.tableBase, psrCmod, h]

/-- Settles O58: the walk writes back the first PTE, and then faults at the second or ends at it as its final PTE. -/
theorem twoLevelTranslation : Obligations.TwoLevelTranslation := by
  refine ⟨State.tableBase_eq, ?_⟩
  intro s va acc a1 a2 e1 e2 hm hs hmode hsize hmods hsizes hbase ha1 hread1 hv1 hpe1 hpp1 hex1 ha2 hread2 hne hcopies
  have h4K : s.TwoLevel4K := ⟨hs, hmode, hsize, hmods, hsizes, hbase⟩
  have hdisjoint : a2.toNat + 4 ≤ a1.toNat ∨ a1.toNat + 4 ≤ a2.toNat := by
    refine pteAddrs_disjoint ?_ ?_ hne.symm
    · rw [ha2]
      exact pteAddr_aligned (table_aligned _) _
    · rw [ha1]
      exact pteAddr_aligned (by omega) _
  rw [← s.firstPteAddr_4K] at ha1
  rw [← secondPteAddr_4K] at ha2
  subst ha1 ha2
  have h1 : s.PteInStep (s.firstPteAddr va pages4K) e1 := ⟨hread1, fun t ht => (hcopies t ht).1⟩
  have hfirst := State.twoPtes_first hm h1 ⟨hread2, fun t ht => (hcopies t ht).2⟩ hdisjoint (e1 ||| 2#32)
  have hm1 := (s.walked_writePte (s.firstPteAddr va pages4K) e1 (e1 ||| 2#32)).wf hm
  rw [h4K.translate_valid h1 hv1, State.walkFirst_table hpe1 hpp1 hex1]
  cases hv2 : e2.getLsbD 0 with
  | false =>
    obtain ⟨bits, hcause, hbits⟩ := pageFault_eq s.userMode acc va
    refine ⟨_, hfirst.rest, hfirst.first.held, hfirst.outside, hfirst.copies,
      fun _ => ⟨⟨bits, ?_, hbits⟩, hfirst.second.held⟩, nofun, nofun⟩
    rw [hfirst.second.walkSecond_invalid hv2, ← hcause]
    rfl
  | true =>
    cases hpe2 : e2.getLsbD 8 with
    | true =>
      exact ⟨_, hfirst.rest, hfirst.first.held, hfirst.outside, hfirst.copies, nofun, nofun, nofun⟩
    | false =>
      rw [hfirst.second.walkSecond_valid hv2 hpe2]
      cases hperm : permits s.userMode acc e2 with
      | false =>
        have hboth := hfirst.second_writePte hm1 hdisjoint e2
        refine ⟨_, hboth.rest, hboth.first.held, hboth.outside, hboth.copies, nofun,
          fun _ _ _ => ⟨?_, hboth.second.held⟩, nofun⟩
        exact State.finalPte_forbidden (s := s.writePte _ e1 _) (pteMiddleClear_4K e2) hperm va _
      | true =>
        have hboth := hfirst.second_writePte hm1 hdisjoint (pteTouched true acc e2)
        refine ⟨_, hboth.rest, hboth.first.held, hboth.outside, hboth.copies, nofun, nofun, fun _ _ _ => ⟨?_, ?_⟩⟩
        · rw [← pageAddr_4K]
          exact State.finalPte_permitted (s := s.writePte _ e1 _) (pteMiddleClear_4K e2) hperm va _
        · rw [hboth.second.held, pteTouched_final]

end Sys2Proof.Machine
end

section
/-! PROOF. Decode and encode agree. For each format one lemma says which instructions its decoder reads from a word, and that
they are those whose encoding is the word; both directions follow from it. -/

namespace Sys2Proof

open Sys2Proof.Machine

/-! ### The words of an opcode -/

/-- A word of the provisional encoding with a given opcode: bit 31 is 0 and bits 30:21 hold the opcode (R122). -/
structure HasOpcode (w : Word) (op : BitVec 10) : Prop where
  bit31 : w.extractLsb' 31 1 = 0#1
  opcode : opcodeField w = op

/-- An opcode read as a number is the opcode (R123). -/
theorem HasOpcode.of_toNat {w : Word} {n : Nat} (h31 : ¬ w.extractLsb' 31 1 = 1#1) (hop : (opcodeField w).toNat = n) :
    HasOpcode w (BitVec.ofNat 10 n) where
  bit31 := (flag01 _).resolve_right h31
  opcode := by rw [← hop, BitVec.ofNat_toNat, BitVec.setWidth_eq]

/-- A word is its fields, those below the opcode being known. -/
theorem HasOpcode.assemble_eq {w : Word} {op : BitVec 10} (h : HasOpcode w op) :
    assemble op (immFlagField w) (codeField w) (midField w) (rdField w) (rsField w) = w := by
  rw [← h.opcode, assemble_fields w h.bit31]

/-- Bit 31 is not 1, as `decode` asks. -/
theorem HasOpcode.not_bit31 {w : Word} {op : BitVec 10} (h : HasOpcode w op) : ¬ w.extractLsb' 31 1 = 1#1 := by
  rw [h.bit31]
  decide

/-- An assembled word has the opcode that it was assembled from. -/
theorem hasOpcode_of_assemble {op : BitVec 10} {f : BitVec 1} {c : Code} {m : BitVec 6} {d r : BitVec 5} {w : Word}
    (hw : assemble op f c m d r = w) : HasOpcode w op := by
  obtain ⟨hop, -, -, -, -, -, h31⟩ := field_assemble op f c m d r
  subst hw
  exact ⟨h31, hop⟩

/-- The same for formats O2 and I11. -/
theorem hasOpcode_of_encodeTwo {op : BitVec 10} {afe : Code} {rd : Reg} {b : Operand} {w : Word}
    (hw : encodeTwo op afe rd b = w) : HasOpcode w op := by
  subst hw
  cases b <;> exact hasOpcode_of_assemble rfl

/-- The same for format I16. -/
theorem hasOpcode_of_encodeImm16 {op : BitVec 10} {rd : Reg} {v : BitVec 16} {w : Word} (hw : encodeImm16 op rd v = w) :
    HasOpcode w op :=
  hasOpcode_of_assemble hw

/-- The same for formats JO1 and JI16. -/
theorem hasOpcode_of_encodeJump {op : BitVec 10} {cc : Cond} {t : Operand} {w : Word} (hw : encodeJump op cc t = w) :
    HasOpcode w op := by
  subst hw
  cases t <;> exact hasOpcode_of_assemble rfl

/-- The same for the formats of `srieiw`. -/
theorem hasOpcode_of_encodeMask {op : BitVec 10} {afe : Code} {v : MaskOperand} {w : Word}
    (hw : encodeMask op afe v = w) : HasOpcode w op := by
  subst hw
  cases v <;> exact hasOpcode_of_assemble rfl

/-! ### Immediates -/

/-- Format I11 writes back the immediate that a word holds (R122). -/
theorem HasOpcode.encodeTwo_imm {w : Word} {op : BitVec 10} (h : HasOpcode w op) (hf : immFlagField w = 1#1) :
    encodeTwo op (codeField w) (rdField w) (.imm (imm11Value (imm11Field w))) = w := by
  obtain ⟨hhigh, hlow⟩ := imm11Value_bits (imm11Field w)
  obtain ⟨hmid, hrs⟩ := imm11_parts (midField w) (rsField w)
  rw [encodeTwo, hhigh, hlow, imm11Field, hmid, hrs, ← hf, h.assemble_eq]

/-- The word of an I11 immediate that fits holds it (R122). -/
theorem imm11_encodeTwo (op : BitVec 10) (afe : Code) (rd : Reg) {v : Word} (hv : fitsImm11 v = true) :
    imm11Value (imm11Field (encodeTwo op afe rd (.imm v))) = v := by
  simp only [encodeTwo, imm11Field, field_assemble]
  exact imm11_roundtrip v hv

/-- Format JI16 writes back the target that a word holds (R122). -/
theorem HasOpcode.encodeJump_imm {w : Word} {op : BitVec 10} (h : HasOpcode w op) (hf : immFlagField w = 1#1) :
    encodeJump op (condOfCode (codeField w)) (.imm (jumpValue (jumpField w))) = w := by
  have hfield : jumpField w = midField w ++ rdField w ++ rsField w := by
    conv_lhs => rw [← h.assemble_eq, jumpField_assemble]
  obtain ⟨hmid, hrd, hrs⟩ := jumpValue_bits (midField w) (rdField w) (rsField w)
  rw [encodeJump, hfield, hmid, hrd, hrs, code_cond, ← hf, h.assemble_eq]

/-! ### Formats -/

/-- Formats O2 and I11: what they read, and from which words. -/
theorem decodeTwo_eq_instr_iff {k : Code → Reg → Operand → Instr} {w : Word} {op : BitVec 10} (h : HasOpcode w op)
    {i : Instr} :
    decodeTwo k w = .instr i ↔ ∃ afe rd b, i = k afe rd b ∧ b.wf = true ∧ encodeTwo op afe rd b = w := by
  constructor
  · intro hd
    unfold decodeTwo at hd
    split at hd
    · cases hd
      exact ⟨_, _, _, rfl, imm11_fits _, h.encodeTwo_imm ‹_›⟩
    · split at hd
      · cases hd
        refine ⟨_, _, .reg (rsField w), rfl, rfl, ?_⟩
        have hf := (flag01 (immFlagField w)).resolve_right ‹_›
        have hmid : midField w = 0#6 := ‹_›
        rw [encodeTwo, ← hf, ← hmid, h.assemble_eq]
      · cases hd
  · rintro ⟨afe, rd, b, rfl, hb, rfl⟩
    cases b with
    | reg rs => simp [decodeTwo, encodeTwo, field_assemble]
    | imm v =>
      rw [decodeTwo, imm11_encodeTwo op afe rd hb]
      simp [encodeTwo, field_assemble]

/-- Format I16: what it reads, and from which words. -/
theorem decodeImm16_eq_instr_iff {k : Reg → BitVec 16 → Instr} {w : Word} {op : BitVec 10} (h : HasOpcode w op)
    {i : Instr} : decodeImm16 k w = .instr i ↔ ∃ rd v, i = k rd v ∧ encodeImm16 op rd v = w := by
  constructor
  · intro hd
    cases hd
    refine ⟨_, _, rfl, ?_⟩
    obtain ⟨hflag, hcode, hmid, hrs⟩ := imm16_parts (immFlagField w) (codeField w) (midField w) (rsField w)
    rw [encodeImm16, imm16Field, hflag, hcode, hmid, hrs, h.assemble_eq]
  · rintro ⟨rd, v, rfl, rfl⟩
    simp only [decodeImm16, encodeImm16, imm16Field, field_assemble, imm16_roundtrip]

/-- Format O1: what it reads, and from which words. -/
theorem decodeOne_eq_instr_iff {k : Code → Reg → Instr} {w : Word} {op : BitVec 10} (h : HasOpcode w op) {i : Instr} :
    decodeOne k w = .instr i ↔ ∃ afe rd, i = k afe rd ∧ assemble op 0#1 afe 0#6 rd 0#5 = w := by
  constructor
  · intro hd
    unfold decodeOne at hd
    split at hd
    · obtain ⟨hf, hmid, hrs⟩ := ‹_ ∧ _ ∧ _›
      cases hd
      exact ⟨_, _, rfl, by rw [← hf, ← hmid, ← hrs, h.assemble_eq]⟩
    · cases hd
  · rintro ⟨afe, rd, rfl, rfl⟩
    simp [decodeOne, field_assemble]

/-- Format C: what it reads, and from which word. -/
theorem decodeNone_eq_instr_iff {j : Instr} {w : Word} {op : BitVec 10} (h : HasOpcode w op) {i : Instr} :
    decodeNone j w = .instr i ↔ i = j ∧ assemble op 0#1 0#4 0#6 0#5 0#5 = w := by
  constructor
  · intro hd
    unfold decodeNone at hd
    split at hd
    · obtain ⟨hf, hc, hmid, hrd, hrs⟩ := ‹_ ∧ _ ∧ _ ∧ _ ∧ _›
      cases hd
      have hw := h.assemble_eq
      rw [hf, hc, hmid, hrd, hrs] at hw
      exact ⟨rfl, hw⟩
    · cases hd
  · rintro ⟨rfl, rfl⟩
    simp [decodeNone, field_assemble]

/-- Formats JO1 and JI16: what they read, and from which words. -/
theorem decodeJump_eq_instr_iff {k : Cond → Operand → Instr} {w : Word} {op : BitVec 10} (h : HasOpcode w op)
    {i : Instr} :
    decodeJump k w = .instr i ↔ ∃ cc t, i = k cc t ∧ t.wfTarget = true ∧ encodeJump op cc t = w := by
  constructor
  · intro hd
    unfold decodeJump at hd
    split at hd
    · cases hd
      exact ⟨_, _, rfl, jump_fits _, h.encodeJump_imm ‹_›⟩
    · split at hd
      · obtain ⟨hmid, hrd⟩ := ‹_ ∧ _›
        cases hd
        refine ⟨_, .reg (rsField w), rfl, rfl, ?_⟩
        have hf := (flag01 (immFlagField w)).resolve_right ‹_›
        rw [encodeJump, code_cond, ← hf, ← hmid, ← hrd, h.assemble_eq]
      · cases hd
  · rintro ⟨cc, t, rfl, ht, rfl⟩
    cases t with
    | reg rs => simp [decodeJump, encodeJump, field_assemble, cond_code]
    | imm v => simp [decodeJump, encodeJump, field_assemble, cond_code, jumpField_assemble, jump_roundtrip v ht]

/-- Formats O1 and I11 of `srieiw`: what they read, and from which words. -/
theorem decodeMask_eq_instr_iff {w : Word} {op : BitVec 10} (h : HasOpcode w op) {i : Instr} :
    decodeMask w = .instr i ↔ ∃ afe v, i = .srieiw afe v ∧ v.wf = true ∧ encodeMask op afe v = w := by
  constructor
  · intro hd
    unfold decodeMask at hd
    split at hd
    · cases hd
      exact ⟨_, _, rfl, imm11_fits _, h.encodeTwo_imm ‹_›⟩
    · obtain ⟨afe, rd, rfl, hw⟩ := (decodeOne_eq_instr_iff h).mp hd
      exact ⟨afe, .reg rd, rfl, rfl, hw⟩
  · rintro ⟨afe, v, rfl, hv, rfl⟩
    cases v with
    | reg rd => simp [decodeMask, decodeOne, encodeMask, field_assemble]
    | imm rd v =>
      rw [encodeMask, decodeMask, imm11_encodeTwo op afe rd hv]
      simp [encodeTwo, field_assemble]

/-- Format I11 of `swi`: what it reads, and from which words. -/
theorem decodeSwi_eq_instr_iff {w : Word} {op : BitVec 10} (h : HasOpcode w op) {i : Instr} :
    decodeSwi w = .instr i ↔
      ∃ afe rd v, i = .swi afe rd (.imm v) ∧ fitsImm11 v = true ∧ encodeTwo op afe rd (.imm v) = w := by
  constructor
  · intro hd
    unfold decodeSwi at hd
    split at hd
    · cases hd
      exact ⟨_, _, _, rfl, imm11_fits _, h.encodeTwo_imm ‹_›⟩
    · cases hd
  · rintro ⟨afe, rd, v, rfl, hv, rfl⟩
    rw [decodeSwi, imm11_encodeTwo op afe rd hv]
    simp [encodeTwo, field_assemble]

/-! ### The whole decoder -/

/-- Decoding the word of a well-formed instruction gives the instruction back (R122, R123). -/
theorem decode_of_encode {i : Instr} {w : Word} (hwf : i.wf = true) (he : encode i = some w) : decode w = .instr i := by
  cases i
  case add | mul | cmp | shl | shr | test | ld8 | ld16 | ld32 | st8 | st16 | st32 | movepc =>
    have hw := Option.some.inj he
    have h := hasOpcode_of_encodeTwo hw
    rw [decode, if_neg h.not_bit31, h.opcode]
    exact (decodeTwo_eq_instr_iff h).mpr ⟨_, _, _, rfl, hwf, hw⟩
  case wl16 | lil | lih =>
    have hw := Option.some.inj he
    have h := hasOpcode_of_encodeImm16 hw
    rw [decode, if_neg h.not_bit31, h.opcode]
    exact (decodeImm16_eq_instr_iff h).mpr ⟨_, _, rfl, hw⟩
  case push | pop | srspr | srspw | sridtw =>
    have hw := Option.some.inj he
    have h := hasOpcode_of_assemble hw
    rw [decode, if_neg h.not_bit31, h.opcode]
    exact (decodeOne_eq_instr_iff h).mpr ⟨_, _, rfl, hw⟩
  case ppush | ib | idts =>
    have hw := Option.some.inj he
    have h := hasOpcode_of_assemble hw
    rw [decode, if_neg h.not_bit31, h.opcode]
    exact (decodeNone_eq_instr_iff h).mpr ⟨rfl, hw⟩
  case branch =>
    have hw := Option.some.inj he
    have h := hasOpcode_of_encodeJump hw
    rw [decode, if_neg h.not_bit31, h.opcode]
    exact (decodeJump_eq_instr_iff h).mpr ⟨_, _, rfl, hwf, hw⟩
  case srieiw =>
    have hw := Option.some.inj he
    have h := hasOpcode_of_encodeMask hw
    rw [decode, if_neg h.not_bit31, h.opcode]
    exact (decodeMask_eq_instr_iff h).mpr ⟨_, _, rfl, hwf, hw⟩
  case swi afe rd n =>
    cases n with
    | reg rs => cases he
    | imm v =>
      have hw := Option.some.inj he
      have h := hasOpcode_of_encodeTwo hw
      rw [decode, if_neg h.not_bit31, h.opcode]
      exact (decodeSwi_eq_instr_iff h).mpr ⟨_, _, _, rfl, hwf, hw⟩
  case clw | srRegR | srRegW | frcrCopyOut | frcrCopyIn | tlbFlush | sync => cases he

/-- A word that decodes is the word of its instruction, which is well-formed (R120, R122). -/
theorem encode_of_decode {w : Word} {i : Instr} (hd : decode w = .instr i) : encode i = some w ∧ i.wf = true := by
  unfold decode at hd
  split at hd
  · cases hd
  have hop {n : Nat} := HasOpcode.of_toNat (w := w) (n := n) ‹_›
  split at hd
  -- the opcodes 0x06A, 0x076 and 0x077, of format I16
  case h_7 h | h_8 h | h_9 h =>
    obtain ⟨rd, v, rfl, hw⟩ := (decodeImm16_eq_instr_iff (hop h)).mp hd
    exact ⟨congrArg some hw, rfl⟩
  -- 0x088, 0x090, 0x0C0, 0x0E0 and 0x0F0, of format O1
  case h_16 h | h_18 h | h_21 h | h_22 h | h_24 h =>
    obtain ⟨afe, rd, rfl, hw⟩ := (decodeOne_eq_instr_iff (hop h)).mp hd
    exact ⟨congrArg some hw, rfl⟩
  -- 0x089, 0x0A3 and 0x122, of format C
  case h_17 h | h_20 h | h_27 h =>
    obtain ⟨rfl, hw⟩ := (decodeNone_eq_instr_iff (hop h)).mp hd
    exact ⟨congrArg some hw, rfl⟩
  -- `branch`, `srieiw`, `swi` and the words without an opcode
  case h_19 h =>
    obtain ⟨cc, t, rfl, ht, hw⟩ := (decodeJump_eq_instr_iff (hop h)).mp hd
    exact ⟨congrArg some hw, ht⟩
  case h_23 h =>
    obtain ⟨afe, v, rfl, hv, hw⟩ := (decodeMask_eq_instr_iff (hop h)).mp hd
    exact ⟨congrArg some hw, hv⟩
  case h_26 h =>
    obtain ⟨afe, rd, v, rfl, hv, hw⟩ := (decodeSwi_eq_instr_iff (hop h)).mp hd
    exact ⟨congrArg some hw, hv⟩
  case h_28 => cases hd
  -- every other opcode, of formats O2 and I11
  all_goals
    obtain ⟨afe, rd, b, rfl, hb, hw⟩ := (decodeTwo_eq_instr_iff (hop ‹_›)).mp hd
    exact ⟨congrArg some hw, hb⟩

/-! ### The obligations -/

/-- Settles O2: each format decodes what it encodes; the rows without a word are the abstract ones. -/
theorem decodeOfEncode : Obligations.DecodeOfEncode := by
  refine ⟨fun i w => decode_of_encode, fun i hi => ?_⟩
  cases i
  case swi afe rd n =>
    cases n with
    | reg rs => cases hi
    | imm v => exact ⟨_, rfl⟩
  case clw | srRegR | srRegW | frcrCopyOut | frcrCopyIn | tlbFlush | sync => cases hi
  all_goals exact ⟨_, rfl⟩

/-- Settles O3: each format writes back the fields that it read, and its immediates fit. -/
theorem encodeOfDecode : Obligations.EncodeOfDecode := fun _ _ => encode_of_decode

/-- Settles O1: each word is the word of its instruction, or fails the check that its rejection names. -/
theorem decodeWrittenWords : Obligations.DecodeWrittenWords :=
  ⟨decode_of_encode rfl rfl, decode_of_encode (by decide) rfl, decode_of_encode rfl rfl, decode_of_encode rfl rfl,
    decode_of_encode rfl rfl, decode_of_encode (by decide) rfl, decode_of_encode (by decide) rfl, rfl, rfl, rfl⟩

end Sys2Proof
end

section
/-! PROOF. What the platform decodes, in Type-E only what Type-E has, and what a step does with a word that is no
instruction. -/

namespace Sys2Proof.Machine

/-! ### The platform's `decode` -/

/-- An instruction that the processor type has is decoded as the platform maps it (R111, R121). -/
theorem decodeFor_of_platform {c : Config} {w : Word} {i : Instr} (h : decodePlatform c w = .instr i)
    (hi : c.procType = .typeS ∨ i.inTypeE = true) : decodeFor c w = .instr i := by
  have hhas : ¬ (c.procType = .typeE ∧ i.inTypeE = false) := by
    rintro ⟨hc, hout⟩
    rcases hi with hs | hin
    · rw [hc] at hs
      cases hs
    · rw [hout] at hin
      cases hin
  rw [decodeFor, h]
  exact if_neg hhas

/-- A word that the platform rejects is rejected for the same reason (R111). -/
theorem decodeFor_of_platform_reject {c : Config} {w : Word} {r : Reject} (h : decodePlatform c w = .reject r) :
    decodeFor c w = .reject r := by
  rw [decodeFor, h]

/-- In Type-E, what decodes is an instruction that Type-E has (R121). -/
theorem inTypeE_of_decodeFor {c : Config} {w : Word} {i : Instr} (hc : c.procType = .typeE)
    (h : decodeFor c w = .instr i) : i.inTypeE = true := by
  unfold decodeFor at h
  split at h
  · cases h
  · split at h
    · cases h
    · rename_i hhas
      cases h
      simpa [hc] using hhas

/-- The words of the platform come first (R111). -/
theorem decodePlatform_of_lookup {c : Config} {w : Word} {i : Instr} (h : lookupWord w c.words = some i) :
    decodePlatform c w = .instr i := by
  rw [decodePlatform, h]

/-- A word that the platform does not list has its provisional meaning, where there is one (R111). -/
theorem decodePlatform_of_not_listed {c : Config} {w : Word} (h : lookupWord w c.words = none) :
    decodePlatform c w = if c.provisional then decode w else .reject .unmapped := by
  rw [decodePlatform, h]

/-- The registers of R176 that Type-E has. -/
theorem ReadReg.inTypeE_iff (r : ReadReg) :
    r.inTypeE = true ↔ r ∈ [.psr, .idtr, .fi0r, .frclr, .frchr, .pflagr, .ppcr, .ppsr] := by
  cases r <;> decide

/-- The registers of R177 that Type-E has. -/
theorem WriteReg.inTypeE_iff (r : WriteReg) :
    r.inTypeE = true ↔ r ∈ [.psr, .frclr, .frchr, .pflagr, .ppcr, .ppsr] := by
  cases r <;> decide

/-- Type-E has an instruction just if it carries no AFE code, is none of the three that Type-E lacks, and names no register
that Type-E lacks (R113, R121, R176, R177, R182). -/
theorem Instr.inTypeE_iff (i : Instr) : i.inTypeE = true ↔
    afeOf i = 0#4 ∧ (∀ afe rd n, i ≠ .swi afe rd n) ∧ i ≠ .tlbFlush ∧ i ≠ .sync ∧
    (∀ r d, i = .srRegR r d → r ∈ [.psr, .idtr, .fi0r, .frclr, .frchr, .pflagr, .ppcr, .ppsr]) ∧
    (∀ r rs, i = .srRegW r rs → r ∈ [.psr, .frclr, .frchr, .pflagr, .ppcr, .ppsr]) := by
  cases i
  case swi afe rd n => exact ⟨nofun, fun ⟨_, hswi, _⟩ => absurd rfl (hswi afe rd n)⟩
  case tlbFlush => exact ⟨nofun, fun ⟨_, _, hne, _⟩ => absurd rfl hne⟩
  case sync => exact ⟨nofun, fun ⟨_, _, _, hne, _⟩ => absurd rfl hne⟩
  case srRegR r d =>
    simp only [Instr.inTypeE, Bool.and_eq_true, beq_iff_eq, ReadReg.inTypeE_iff]
    exact ⟨fun ⟨hafe, hr⟩ => ⟨hafe, nofun, nofun, nofun, fun _ _ h => by cases h; exact hr, nofun⟩,
      fun ⟨hafe, _, _, _, hr, _⟩ => ⟨hafe, hr r d rfl⟩⟩
  case srRegW r rs =>
    simp only [Instr.inTypeE, WriteReg.inTypeE_iff]
    exact ⟨fun hr => ⟨rfl, nofun, nofun, nofun, nofun, fun _ _ h => by cases h; exact hr⟩,
      fun ⟨_, _, _, _, _, hr⟩ => hr r rs rfl⟩
  all_goals simp [Instr.inTypeE, afeOf]

/-- Settles O4: the platform's words, then the provisional encoding, and in Type-E what Type-E has. -/
theorem platformDecode : Obligations.PlatformDecode := by
  refine ⟨fun c w => ⟨fun i h => decodeFor_of_platform (decodePlatform_of_lookup h), fun i h hp hd => ?_,
    fun r h hp hd => ?_, fun h hp => ?_, fun i => inTypeE_of_decodeFor⟩, Instr.inTypeE_iff⟩
  · exact decodeFor_of_platform (by rw [decodePlatform_of_not_listed h, if_pos hp, hd])
  · exact decodeFor_of_platform_reject (by rw [decodePlatform_of_not_listed h, if_pos hp, hd])
  · exact decodeFor_of_platform_reject (by rw [decodePlatform_of_not_listed h, hp]; rfl)

/-! ### A word that is no instruction -/

@[simp] theorem State.atBoundary_idtc (s : State) : s.atBoundary.idtc = s.idtc := by rw [State.atBoundary_rest]
@[simp] theorem State.atBoundary_idtr (s : State) : s.atBoundary.idtr = s.idtr := by rw [State.atBoundary_rest]

/-- An entry from the boundary saves the context of the state before it (R215). -/
theorem State.EnteredFrom.of_atBoundary {s t : State} (h : s.atBoundary.EnteredFrom t) : s.EnteredFrom t := by
  rw [State.atBoundary_rest] at h
  obtain ⟨hpflagr, hppsr, hppdtr, hptidr, hmasked, hkernel, hflagr⟩ := h
  exact ⟨hpflagr, hppsr, hppdtr, hptidr, hmasked, hkernel, hflagr⟩

/-- An entry from the boundary keeps what it keeps of the state before it (R215). -/
theorem State.KeptByEntry.of_atBoundary {s t : State} (h : s.atBoundary.KeptByEntry t) : s.KeptByEntry t := by
  rw [State.atBoundary_rest] at h
  obtain ⟨hgpr, hspr, hpdtr, hkpdtr, htidr, htisr, hidtr, hidtc, hmem, hpsr⟩ := h
  exact ⟨hgpr, hspr, hpdtr, hkpdtr, htidr, htisr, hidtr, hidtc, hmem, hpsr⟩

/-- A vector is the same vector at the boundary. -/
theorem State.Vector.atBoundary {s : State} {n : Nat} {h : Word} (v : s.Vector n h) : s.atBoundary.Vector n h :=
  v.congr s.atBoundary_cfg s.atBoundary_idtc s.atBoundary_mem s.atBoundary_iosar s.atBoundary_idtr

/-- A word that decodes to nothing runs as an invalid instruction (R119). -/
theorem State.runWord_reject {s : State} {w : Word} {r : Reject} (h : decodeFor s.cfg w = .reject r) :
    s.runWord w = s.invalidInstruction := by
  rw [State.runWord, h]

/-- Type-S: an invalid instruction enters 42 with PCR in FI0R, in FI1R and as the return address (R119, R202, R217). -/
theorem State.invalidInstruction_typeS {s : State} {h : Word} (hs : s.isS = true) (v : s.Vector 42 h) :
    s.invalidInstruction = .next (s.entered ⟨42, some s.pcr, some s.pcr⟩ s.pcr h) := by
  rw [State.invalidInstruction, if_pos hs]
  exact State.enter_vector v s.pcr

/-- Type-E: an invalid instruction ends the run (R119, D45). -/
theorem State.invalidInstruction_typeE {s : State} (hs : s.isS = false) :
    s.invalidInstruction = .fault .typeEInvalid := by
  simp [State.invalidInstruction, hs]

/-- In Type-S, entry writes FI1R where the cause gives it a value (R202). -/
theorem State.entered_fi1r_typeS {s : State} (hs : s.isS = true) (n : Nat) (a : Option Word) (x ret h : Word) :
    (s.entered ⟨n, a, some x⟩ ret h).fi1r = x := by
  simp [hs]

/-- Settles O11: the fetched word runs as an invalid instruction, on the state at the boundary or on the one that the
translation of PCR leaves. -/
theorem invalidWordEnters42 : Obligations.InvalidWordEnters42 := by
  refine ⟨fun s w r hf hd => ?_, fun s s1 pa r hu ht hstored hd => ?_⟩
  · have hstep : step s = s.atBoundary.invalidInstruction := by
      rw [hf.step_eq, State.runWord_reject (by rw [State.atBoundary_cfg]; exact hd)]
    refine ⟨fun h hs v => ?_, fun hs => ?_⟩
    · have hs' : s.atBoundary.isS = true := by rw [State.atBoundary_isS, hs]
      rw [hstep, State.invalidInstruction_typeS hs' v.atBoundary, State.atBoundary_pcr]
      exact ⟨_, rfl, (State.enteredFrom _ _ _ _).of_atBoundary, (State.keptByEntry _ _ _ _).of_atBoundary,
        State.entryOnly _ _ _ _, rfl, rfl, rfl, State.entered_fi1r_typeS hs' _ _ _ _ _⟩
    · rw [hstep, State.invalidInstruction_typeE (by rw [State.atBoundary_isS, hs])]
  · have hrest := ht.walked.rest
    have hcfg : s1.cfg = s.cfg := by rw [hrest, State.atBoundary_cfg]
    have hpcr : s1.pcr = s.pcr := by rw [hrest, State.atBoundary_pcr]
    have hstep : step s = s1.invalidInstruction := by
      rw [hu.step_translated ht hstored, State.runWord_reject (by rw [hcfg]; exact hd)]
    refine ⟨fun h hs v => ?_, fun hs => ?_⟩
    · have hs' : s1.isS = true := by rw [State.isS_congr hcfg, hs]
      have hptes := State.translate_onlyPtes s.atBoundary s.pcr .fetch
      rw [ht.translation] at hptes
      rw [hstep, State.invalidInstruction_typeS hs' v, hpcr]
      exact ⟨_, rfl, State.enteredFrom _ _ _ _, State.keptByEntry _ _ _ _, State.entryOnly _ _ _ _, rfl, rfl, rfl,
        State.entered_fi1r_typeS hs' _ _ _ _ _, hptes⟩
    · rw [hstep, State.invalidInstruction_typeE (by rw [State.isS_congr hcfg, hs])]

end Sys2Proof.Machine
end

section
/-! PROOF. The two instructions that build an address, and the condition codes: after a compare each orders the operands as
its name says. -/

namespace Sys2Proof.Machine

/-! ### Building an address -/

/-- The low half written into a word whose high half is `hi a` gives `a` (R118, R155). -/
theorem hi_lo_eq (a : Word) : ((hi a ++ 0#16).extractLsb' 16 16 : BitVec 16) ++ lo a = a := by
  apply BitVec.eq_of_getLsbD_eq
  intro k hk
  simp only [hi, lo, BitVec.getLsbD_append, BitVec.getLsbD_extractLsb']
  by_cases hlow : k < 16
  · simp [hlow]
  · simp [hlow, show k - 16 < 16 by omega, show 16 + (k - 16) = k by omega]

/-- Settles O32: `wl16` keeps the high half that `lih` wrote (R155), and neither writes another register. -/
theorem lihWl16BuildAddress : Obligations.LihWl16BuildAddress := by
  intro s rd a
  refine ⟨_, _, rfl, rfl, ?_, fun r hr => ?_, rfl⟩
  · simp [hi_lo_eq]
  · simp [hr]

/-! ### Condition codes -/

@[simp] theorem flagSF_packFlags (sf ov cf pf zf : Bool) : flagSF (packFlags sf ov cf pf zf) = sf := by
  revert sf ov cf pf zf
  decide
@[simp] theorem flagOF_packFlags (sf ov cf pf zf : Bool) : flagOF (packFlags sf ov cf pf zf) = ov := by
  revert sf ov cf pf zf
  decide
@[simp] theorem flagCF_packFlags (sf ov cf pf zf : Bool) : flagCF (packFlags sf ov cf pf zf) = cf := by
  revert sf ov cf pf zf
  decide
@[simp] theorem flagZF_packFlags (sf ov cf pf zf : Bool) : flagZF (packFlags sf ov cf pf zf) = zf := by
  revert sf ov cf pf zf
  decide

/-- After a subtraction ZF is 1 just if the operands are equal (R132). -/
theorem flagZF_flagsSub (a b : Word) : flagZF (flagsSub a b) = decide (a = b) := by
  rw [flagsSub, flagZF_packFlags, Bool.beq_eq_decide_eq, decide_eq_decide]
  exact sub_eq_zero

/-- After a subtraction CF is 1 just if there is no borrow (R132). -/
theorem flagCF_flagsSub (a b : Word) : flagCF (flagsSub a b) = decide (b.toNat ≤ a.toNat) := by
  rw [flagsSub, flagCF_packFlags]

/-- After a subtraction SF differs from OF just if the first operand is below the second as a signed number: operands of
one sign cannot overflow, and operands of two signs are compared by the sign of the first (R132). -/
theorem flagSF_xor_flagOF_flagsSub (a b : Word) :
    (flagSF (flagsSub a b) ^^ flagOF (flagsSub a b)) = decide (a.toInt < b.toInt) := by
  rw [flagsSub, flagSF_packFlags, flagOF_packFlags]
  by_cases hsign : a.msb = b.msb
  · have hexact : (a - b).toInt = a.toInt - b.toInt :=
      BitVec.toInt_sub_of_not_ssubOverflow (by cases h : b.msb <;> simp [BitVec.ssubOverflow_eq, hsign, h])
    simp [hsign, BitVec.msb_eq_toInt, hexact]
  · have hfirst : ((a - b).msb ^^ ((a - b).msb != a.msb)) = a.msb := by cases (a - b).msb <;> cases a.msb <;> rfl
    rw [bne_iff_ne.mpr hsign, Bool.true_and, hfirst, BitVec.msb_eq_toInt, decide_eq_decide]
    rw [BitVec.msb_eq_toInt, BitVec.msb_eq_toInt, decide_eq_decide] at hsign
    omega

/-- `SU` holds where SF differs from OF (R115). -/
theorem condHolds_su (f : Flags) : condHolds .su f = (flagSF f ^^ flagOF f) := by
  show (flagSF f && !flagOF f || !flagSF f && flagOF f) = _
  cases flagSF f <;> cases flagOF f <;> rfl

/-- What the conditions on FLAGR say of two operands that were compared (R115): what their names say. -/
theorem condHolds_flagsSub (a b : Word) :
    condHolds .eq (flagsSub a b) = decide (a = b) ∧
    condHolds .ueo (flagsSub a b) = decide (b.toNat ≤ a.toNat) ∧
    condHolds .uo (flagsSub a b) = decide (b.toNat < a.toNat) ∧
    condHolds .su (flagsSub a b) = decide (a.toInt < b.toInt) ∧
    condHolds .seu (flagsSub a b) = decide (a.toInt ≤ b.toInt) := by
  have huo : condHolds .uo (flagsSub a b) = (flagCF (flagsSub a b) && !flagZF (flagsSub a b)) := rfl
  have hseu : condHolds .seu (flagsSub a b) = ((flagSF (flagsSub a b) ^^ flagOF (flagsSub a b)) || flagZF (flagsSub a b)) :=
    rfl
  refine ⟨flagZF_flagsSub a b, flagCF_flagsSub a b, ?_, ?_, ?_⟩
  · rw [huo, flagCF_flagsSub, flagZF_flagsSub, Bool.eq_iff_iff]
    simp only [Bool.and_eq_true, Bool.not_eq_true', decide_eq_true_eq, decide_eq_false_iff_not, ← BitVec.toNat_inj]
    omega
  · rw [condHolds_su, flagSF_xor_flagOF_flagsSub]
  · rw [hseu, flagSF_xor_flagOF_flagsSub, flagZF_flagsSub, Bool.eq_iff_iff]
    simp only [Bool.or_eq_true, decide_eq_true_eq, ← BitVec.toInt_inj]
    omega

/-- `NEQ`, `UU`, `UEU`, `SEO` and `SO` are the negations of `EQ`, `UEO`, `UO`, `SU` and `SEU` (R115). -/
theorem condHolds_not (f : Flags) :
    condHolds .neq f = !condHolds .eq f ∧ condHolds .uu f = !condHolds .ueo f ∧ condHolds .ueu f = !condHolds .uo f ∧
    condHolds .seo f = !condHolds .su f ∧ condHolds .so f = !condHolds .seu f := by
  revert f
  decide

/-- A compare that completes leaves the flags of the subtraction (R132, R134). -/
theorem flagr_of_cmp {afe : Code} {rd : Reg} {b : Operand} {s u : State} (h : exec (.cmp afe rd b) s = .next u) :
    u.flagr = flagsSub (s.reg rd) (s.operand b) := by
  obtain ⟨g, -, hnext⟩ := State.withAfe_next h
  cases hnext
  rfl

/-- `b` jumps where its condition holds on FLAGR, and else goes on (R160). -/
theorem exec_branch_pcr (cc : Cond) (target : Operand) (s : State) :
    ∃ t, exec (.branch cc target) s = .next t ∧
      t.pcr = if condHolds cc s.flagr then s.operand target else s.pcr + 4#32 := by
  have hexec : exec (.branch cc target) s = execBranch cc target s := rfl
  rw [hexec, execBranch]
  split
  · exact ⟨_, rfl, rfl⟩
  · exact ⟨_, rfl, rfl⟩

/-- Settles O26: the tables are those of R115; `b` completes on any flags, those that a compare or a test generated among
them; and the flags of a subtraction order the operands. -/
theorem conditionCodes : Obligations.ConditionCodes := by
  refine ⟨rfl, cond_code, rfl, fun f => ⟨rfl, rfl, rfl, rfl, rfl, rfl, rfl, rfl, rfl, rfl, rfl, rfl, rfl, rfl, rfl, rfl⟩,
    fun i cc target s u _ _ => exec_branch_pcr cc target u, fun afe rd b s u h => ?_⟩
  obtain ⟨heq, hueo, huo, hsu, hseu⟩ := condHolds_flagsSub (s.reg rd) (s.operand b)
  obtain ⟨hneq, huu, hueu, hseo, hso⟩ := condHolds_not (flagsSub (s.reg rd) (s.operand b))
  rw [flagr_of_cmp h, hneq, huu, hueu, hseo, hso, heq, hueo, huo, hsu, hseu]
  simp

end Sys2Proof.Machine
end

section
/-! PROOF. Compare, test and arithmetic, and the instructions that load an immediate: each completes with its result in
the destination and, where it has flags, with those of the result, read as integers. -/

namespace Sys2Proof.Machine

/-! ### Flags as integers -/

@[simp] theorem flagPF_packFlags (sf ov cf pf zf : Bool) : flagPF (packFlags sf ov cf pf zf) = pf := by
  revert sf ov cf pf zf
  decide

/-- Bit 0 is the parity of the number. -/
theorem not_getLsbD_zero_iff (r : Word) : (!r.getLsbD 0) = true ↔ r.toNat % 2 = 0 := by
  rw [← BitVec.testBit_toNat, Nat.testBit_zero]
  simp

/-- Every flag computation takes SF, PF and ZF from the result alone (R131 to R133). -/
theorem flags_of_result (f : Flags) (r : Word) (ov cf : Bool)
    (hf : f = packFlags r.msb ov cf (!r.getLsbD 0) (r == 0#32)) :
    flagSF f = r.msb ∧ flagOF f = ov ∧ flagCF f = cf ∧ (flagPF f = true ↔ r.toNat % 2 = 0) ∧
    (flagZF f = true ↔ r = 0#32) := by
  subst hf
  simp [← not_getLsbD_zero_iff]

/-- The flags of a result without carry or overflow of its own (R133, D6). -/
theorem flagsLogic_spec (r : Word) :
    flagSF (flagsLogic r) = r.msb ∧ flagOF (flagsLogic r) = false ∧ flagCF (flagsLogic r) = false ∧
    (flagPF (flagsLogic r) = true ↔ r.toNat % 2 = 0) ∧ (flagZF (flagsLogic r) = true ↔ r = 0#32) :=
  flags_of_result _ r false false rfl

/-- Operands of one sign whose sum has the other sign are those whose sum is no signed word (R131). -/
theorem addOverflow_iff (a b : Word) : ((a.msb == b.msb) && ((a + b).msb != a.msb)) = true ↔
    a.toInt + b.toInt < -2 ^ 31 ∨ 2 ^ 31 ≤ a.toInt + b.toInt := by
  have hbits : ((a.msb == b.msb) && ((a + b).msb != a.msb)) = a.saddOverflow b := (BitVec.saddOverflow_eq a b).symm
  rw [hbits, BitVec.saddOverflow, Bool.or_eq_true, decide_eq_true_eq, decide_eq_true_eq]
  exact or_comm

/-- Operands of two signs whose difference has not the sign of the first are those whose difference is no signed word
(R132). -/
theorem subOverflow_iff (a b : Word) : ((a.msb != b.msb) && ((a - b).msb != a.msb)) = true ↔
    a.toInt - b.toInt < -2 ^ 31 ∨ 2 ^ 31 ≤ a.toInt - b.toInt := by
  have hbits : ((a.msb != b.msb) && ((a - b).msb != a.msb)) = a.ssubOverflow b := by
    rw [BitVec.ssubOverflow_eq]
    cases a.msb <;> cases b.msb <;> cases (a - b).msb <;> rfl
  rw [hbits, BitVec.ssubOverflow, Bool.or_eq_true, decide_eq_true_eq, decide_eq_true_eq]
  exact or_comm

/-- The flags of an addition, in integers (R131). -/
theorem flagsAdd_spec (a b : Word) :
    (flagSF (flagsAdd a b) = true ↔ (a + b).toInt < 0) ∧
    (flagOF (flagsAdd a b) = true ↔ a.toInt + b.toInt < -2 ^ 31 ∨ 2 ^ 31 ≤ a.toInt + b.toInt) ∧
    (flagCF (flagsAdd a b) = true ↔ 2 ^ 32 ≤ a.toNat + b.toNat) ∧
    (flagPF (flagsAdd a b) = true ↔ (a + b).toNat % 2 = 0) ∧ (flagZF (flagsAdd a b) = true ↔ a + b = 0#32) := by
  obtain ⟨hsf, hof, hcf, hpf, hzf⟩ := flags_of_result (flagsAdd a b) (a + b) _ _ rfl
  rw [hsf, hof, hcf, addOverflow_iff, BitVec.msb_eq_toInt]
  exact ⟨decide_eq_true_iff, .rfl, decide_eq_true_iff, hpf, hzf⟩

/-- The flags of a subtraction, in integers; CF is 1 where there is no borrow (R132). -/
theorem flagsSub_spec (a b : Word) :
    (flagSF (flagsSub a b) = true ↔ (a - b).toInt < 0) ∧
    (flagOF (flagsSub a b) = true ↔ a.toInt - b.toInt < -2 ^ 31 ∨ 2 ^ 31 ≤ a.toInt - b.toInt) ∧
    (flagCF (flagsSub a b) = true ↔ b.toNat ≤ a.toNat) ∧
    (flagPF (flagsSub a b) = true ↔ (a - b).toNat % 2 = 0) ∧ (flagZF (flagsSub a b) = true ↔ a = b) := by
  obtain ⟨hsf, hof, -, hpf, -⟩ := flags_of_result (flagsSub a b) (a - b) _ _ rfl
  rw [hsf, hof, subOverflow_iff, BitVec.msb_eq_toInt, flagCF_flagsSub, flagZF_flagsSub]
  exact ⟨decide_eq_true_iff, .rfl, decide_eq_true_iff, hpf, decide_eq_true_iff⟩

/-! ### Instructions whose AFE code has a meaning -/

/-- ARITH_FLAGS decides between the flags of the instruction and 0 (R130). -/
theorem State.arithFlags_eq (s : State) (f : Flags) :
    s.arithFlags f = if s.cfg.arithFlags = .generate then f else 0#5 := by
  cases h : s.cfg.arithFlags <;> simp [State.arithFlags, h]

/-- An arithmetic instruction ends with the result after the AFE and the flags before it (R130, R190; log 11). -/
theorem State.arithResult_wroteReg (s : State) (rd : Reg) (g : Word → Word) (r : Word) (f : Flags) :
    ∃ t, s.arithResult rd g r f = .next t ∧ s.WroteReg t rd (g r) (s.arithFlags f) :=
  ⟨_, rfl, s.wroteReg rd (g r) (s.arithFlags f)⟩

section
variable {s : State} {afe : Code} {g : Word → Word}

theorem exec_cmp (hg : afeFunction s.cfg afe = some g) (rd : Reg) (b : Operand) :
    exec (.cmp afe rd b) s = .next (s.retire (flagsSub (s.reg rd) (s.operand b))) := by
  rw [exec, execCmp, State.withAfe_some hg]

theorem exec_test (hg : afeFunction s.cfg afe = some g) (rd : Reg) (b : Operand) :
    exec (.test afe rd b) s = .next (s.retire (flagsLogic (s.reg rd &&& s.operand b))) := by
  rw [exec, execTest, State.withAfe_some hg]

theorem exec_add (hg : afeFunction s.cfg afe = some g) (rd : Reg) (b : Operand) : exec (.add afe rd b) s =
    s.arithResult rd g (s.reg rd + s.operand b) (flagsAdd (s.reg rd) (s.operand b)) := by
  rw [exec, execAdd, State.withAfe_some hg]

theorem exec_mul (hg : afeFunction s.cfg afe = some g) (rd : Reg) (b : Operand) : exec (.mul afe rd b) s =
    s.arithResult rd g (s.reg rd * s.operand b) (flagsLogic (s.reg rd * s.operand b)) := by
  rw [exec, execMul, State.withAfe_some hg]

theorem exec_clw (hg : afeFunction s.cfg afe = some g) (rd : Reg) :
    exec (.clw ⟨rd, afe⟩) s = .next ((s.setReg rd (g 0#32)).retire 0#5) := by
  rw [exec, execClw, State.withAfe_some hg]

/-- A shift by less than the width has the shifted value as its result (R137, R138). -/
theorem State.shift_within (hg : afeFunction s.cfg afe = some g) (rd : Reg) {b : Operand} (op : Word → Nat → Word)
    (hn : (s.operand b).toNat < 32) :
    ∃ t r, s.shift afe rd b op = .next t ∧ r = op (s.reg rd) (s.operand b).toNat ∧
      s.WroteReg t rd (g r) (s.arithFlags (flagsLogic r)) := by
  obtain ⟨t, hnext, hwrote⟩ := s.arithResult_wroteReg rd g (op (s.reg rd) (s.operand b).toNat)
    (flagsLogic (op (s.reg rd) (s.operand b).toNat))
  refine ⟨t, _, ?_, rfl, hwrote⟩
  rw [State.shift, State.withAfe_some hg, if_pos hn, hnext]

/-- A shift by the width or more is refused where the parameter has it so (D39). -/
theorem State.shift_refused (hg : afeFunction s.cfg afe = some g) (rd : Reg) {b : Operand} (op : Word → Nat → Word)
    (hn : 32 ≤ (s.operand b).toNat) (hbeyond : s.cfg.shiftBeyond = .refuse) :
    s.shift afe rd b op = .refused .shiftAmount := by
  rw [State.shift, State.withAfe_some hg, if_neg (Nat.not_lt.mpr hn), if_pos hbeyond]

/-- A shift by the width or more that the parameter lets run draws its result (log 13). -/
theorem State.shift_free (hg : afeFunction s.cfg afe = some g) (rd : Reg) {b : Operand} (op : Word → Nat → Word)
    (hn : 32 ≤ (s.operand b).toNat) (hbeyond : s.cfg.shiftBeyond = .free) :
    ∃ t r, s.shift afe rd b op = .next t ∧ s.drawn.WroteReg t rd (g r) (s.arithFlags (flagsLogic r)) := by
  have hrun : s.cfg.shiftBeyond ≠ .refuse := by simp [hbeyond]
  obtain ⟨t, hnext, hwrote⟩ := s.drawn.arithResult_wroteReg rd g (Config.shiftBeyondWidth s.draws)
    (flagsLogic (Config.shiftBeyondWidth s.draws))
  refine ⟨t, _, ?_, hwrote⟩
  rw [State.shift, State.withAfe_some hg, if_neg (Nat.not_lt.mpr hn), if_neg hrun, hnext]

end

/-! ### The obligations -/

/-- Settles O25: `cmp` retires with the flags of the subtraction (R132, R134). -/
theorem cmpResult : Obligations.CmpResult := fun s _ _ rd b hg =>
  ⟨_, exec_cmp hg rd b, flagsSub_spec (s.reg rd) (s.operand b)⟩

/-- Settles O27: `test` retires with the flags of the AND, which has no carry or overflow (R133, R135). -/
theorem testResult : Obligations.TestResult := fun s _ _ rd b hg =>
  ⟨_, exec_test hg rd b, flagsLogic_spec (s.reg rd &&& s.operand b)⟩

/-- Settles O28: the sum of words is the sum mod 2^32, and `flagsAdd` reads as R131 says. -/
theorem addResult : Obligations.AddResult := by
  intro s afe g rd b hg
  obtain ⟨t, hnext, hwrote⟩ :=
    s.arithResult_wroteReg rd g (s.reg rd + s.operand b) (flagsAdd (s.reg rd) (s.operand b))
  rw [State.arithFlags_eq] at hwrote
  exact ⟨t, _, _, (exec_add hg rd b).trans hnext, BitVec.toNat_add _ _, hwrote, flagsAdd_spec _ _⟩

/-- Settles O30: the product of words is the product mod 2^32, and its flags are those of R133. -/
theorem mulResult : Obligations.MulResult := by
  intro s afe g rd b hg
  obtain ⟨t, hnext, hwrote⟩ :=
    s.arithResult_wroteReg rd g (s.reg rd * s.operand b) (flagsLogic (s.reg rd * s.operand b))
  rw [State.arithFlags_eq] at hwrote
  exact ⟨t, _, _, (exec_mul hg rd b).trans hnext, BitVec.toNat_mul _ _, hwrote, flagsLogic_spec _⟩

/-- Settles O29: `shl` and `shr` are one shift with two operations, so each clause is a fact about `State.shift`; the
operations are the product with and the quotient by a power of two. -/
theorem shiftResult : Obligations.ShiftResult := by
  intro s afe g rd b hg
  have hshl : exec (.shl afe rd b) s = s.shift afe rd b fun a n => a <<< n := rfl
  have hshr : exec (.shr afe rd b) s = s.shift afe rd b fun a n => a >>> n := rfl
  rw [hshl, hshr]
  refine ⟨fun hn => ?within, fun hn hbeyond => ?refused, fun hn hbeyond => ?free, fun r hflags => ?generated,
    fun r hflags => ?zero⟩
  case within =>
    obtain ⟨t, r, hleft, hr, hwroteLeft⟩ := State.shift_within hg rd (fun a n => a <<< n) hn
    obtain ⟨u, q, hright, hq, hwroteRight⟩ := State.shift_within hg rd (fun a n => a >>> n) hn
    refine ⟨⟨t, r, hleft, ?_, hwroteLeft⟩, ⟨u, q, hright, ?_, hwroteRight⟩⟩
    · rw [hr, BitVec.toNat_shiftLeft, Nat.shiftLeft_eq]
    · rw [hq, BitVec.toNat_ushiftRight, Nat.shiftRight_eq_div_pow]
  case refused => exact ⟨State.shift_refused hg rd _ hn hbeyond, State.shift_refused hg rd _ hn hbeyond⟩
  case free => exact ⟨State.shift_free hg rd _ hn hbeyond, State.shift_free hg rd _ hn hbeyond⟩
  case generated =>
    rw [State.arithFlags_eq, if_pos hflags]
    exact flagsLogic_spec r
  case zero => simp [State.arithFlags_eq, hflags]

/-- What `lil` extends with is what LIL_EXT says: 0 keeps the number, the sign keeps the signed number (R153). -/
theorem lilValue_spec (e : LilExt) (imm : BitVec 16) :
    (e = .zero → (lilValue e imm).toNat = imm.toNat) ∧ (e = .sign → (lilValue e imm).toInt = imm.toInt) := by
  refine ⟨?_, ?_⟩
  · rintro rfl
    exact BitVec.toNat_setWidth_of_le (by decide)
  · rintro rfl
    exact BitVec.toInt_signExtend_of_le (by decide)

/-- An immediate above a cleared low half is the immediate times 2^16 (R154). -/
theorem toNat_append_zero (imm : BitVec 16) : (imm ++ 0#16 : Word).toNat = imm.toNat * 2 ^ 16 := by
  rw [BitVec.toNat_append, Nat.shiftLeft_eq, BitVec.toNat_zero, Nat.or_zero]

/-- Settles O31: each instruction writes one register and leaves no flags (R140, R153 to R155). -/
theorem clearAndLoadImmediate : Obligations.ClearAndLoadImmediate := by
  intro s rd imm
  exact ⟨fun afe g hg => ⟨_, exec_clw hg rd, s.wroteReg rd _ _⟩,
    ⟨_, exec_clw (afeFunction_zero s.cfg) rd, s.wroteReg rd _ _⟩,
    ⟨_, _, rfl, s.wroteReg rd _ _, lilValue_spec s.cfg.lilExt imm⟩,
    ⟨_, _, rfl, s.wroteReg rd _ _, toNat_append_zero imm⟩,
    ⟨_, _, rfl, s.wroteReg rd _ _, BitVec.extractLsb'_append_eq_left, BitVec.extractLsb'_append_eq_right⟩⟩

end Sys2Proof.Machine
end

section
/-! PROOF. The memory that an instruction leaves, and the loads, stores and stack instructions with paging off. -/

namespace Sys2Proof.Machine

/-! ### What leaves memory as it is -/

/-- Interrupt entry writes no memory (R215). -/
theorem State.enter_mem {s t : State} {c : Cause} {ret : Word} (h : s.enter c ret = .next t) : t.mem = s.mem := by
  obtain ⟨c', f, hdl, -, -, -, -, rfl, -⟩ := State.enter_next h
  rfl

/-- An instruction whose access leaves memory `m`, and which writes none after it, leaves memory `m`; a fault that the
access raises is entered, which writes none either (R217). -/
theorem Res.States.finish_mem {α : Type} {x : Res α} {k : α → State → Answer} {m : Memory} {t : State}
    (hx : x.States fun u => u.mem = m) (hk : ∀ v u, k v u = .next t → t.mem = u.mem) (h : x.finish k = .next t) :
    t.mem = m := by
  obtain ⟨v, u, rfl, hnext⟩ | ⟨c, u, rfl, henter⟩ := Res.finish_next h
  · exact (hk v u hnext).trans hx
  · exact (State.enter_mem henter).trans hx

/-- A load from the I/O region leaves memory alone (R242). -/
theorem State.ioLoad_mem (s : State) (a : Word) : (s.ioLoad a).States fun t => t.mem = s.mem := by
  cases hu : s.unitState (unitOfAddr s.cfg a) with
  | s0 =>
    rw [State.ioLoad_s0 hu]
    rfl
  | i0 n =>
    by_cases hc : (n, a) ∈ s.cfg.causeRegs
    · rw [State.ioLoad_cause hu hc]
      cases unitOfAddr s.cfg a <;> rfl
    · rw [State.ioLoad_i0 hu hc]
      trivial

/-- A read at a physical address leaves memory alone (R92). -/
theorem State.readPhys_mem (s : State) (pa : Word) (w : Width) : (s.readPhys pa w).States fun t => t.mem = s.mem := by
  unfold State.readPhys
  split
  case isTrue =>
    split
    · exact s.ioLoad_mem pa
    · trivial
  case isFalse =>
    split
    · rfl
    · trivial

/-- With paging off a data read leaves memory alone: there is no page table to write flags into (R76, R84). -/
theorem State.memRead_mem {s : State} (hoff : s.pagingOff) (va : Word) (w : Width) :
    (s.memRead va w).States fun t => t.mem = s.mem := by
  by_cases ha : va.toNat % w.bytes = 0
  · rw [State.memRead_aligned ha, Res.bind_ok_eq (State.translate_off hoff va .read)]
    exact s.readPhys_mem va w
  · rw [State.memRead_misaligned ha]
    trivial

/-- With paging off a load leaves memory alone (R143 to R145). -/
theorem State.load_mem {s t : State} {afe : Code} {rd : Reg} {ea : Operand} {w : Width} (hoff : s.pagingOff)
    (h : s.load afe rd ea w = .next t) : t.mem = s.mem := by
  obtain ⟨g, -, hload⟩ := State.withAfe_next h
  refine (State.memRead_mem hoff _ w).finish_mem (fun v u hnext => ?_) hload
  cases hnext
  rfl

/-- With paging off `pop` leaves memory alone (R151). -/
theorem execPop_mem {s t : State} {afe : Code} {rd : Reg} (hoff : s.pagingOff) (h : execPop afe rd s = .next t) :
    t.mem = s.mem := by
  obtain ⟨g, -, hpop⟩ := State.withAfe_next h
  refine (State.memRead_mem hoff _ .word).finish_mem (fun v u hnext => ?_) hpop
  cases hnext
  rfl

/-- With paging off no instruction that loads changes memory (R142). -/
theorem exec_mem_of_isLoad {i : Instr} {s t : State} (hi : isLoad i = true) (hoff : s.pagingOff)
    (h : exec i s = .next t) : t.mem = s.mem := by
  cases i
  case ld8 | ld16 | ld32 => exact State.load_mem hoff h
  case pop => exact execPop_mem hoff h
  all_goals cases hi

/-- The own effect of an instruction that makes no data access leaves memory alone (R142). -/
theorem DirectEffect.mem {i : Instr} {s t : State} (hd : DirectEffect i s t) (hi : (isLoad i || isStore i) = false) :
    t.mem = s.mem := by
  cases i <;> simp only [DirectEffect] at hd
  case ld8 | ld16 | ld32 | st8 | st16 | st32 | push | ppush | pop => cases hi
  case add | mul =>
    obtain ⟨v, f, rfl⟩ := hd
    rfl
  case shl | shr =>
    obtain ⟨v, f, rfl | rfl⟩ := hd
    · rfl
    · rfl
  case cmp | test | wl16 | lil | lih | movepc | srspr | clw | srRegR | branch | srspw =>
    obtain ⟨x, rfl⟩ := hd
    rfl
  case srieiw | sridtw | frcrCopyIn | tlbFlush =>
    obtain ⟨-, x, rfl⟩ := hd
    rfl
  case frcrCopyOut =>
    obtain ⟨a, b, rfl⟩ := hd
    rfl
  case ib =>
    obtain ⟨-, -, rfl⟩ := hd
    rfl
  case idts =>
    obtain ⟨-, rfl⟩ := hd
    rfl
  case srRegW =>
    obtain ⟨-, -, rfl⟩ := hd
    simp
  case sync => rw [hd, State.retire_mem]

/-- An instruction that makes no data access leaves memory alone, whether it has its own effect or raises an interrupt
(R142, R215). -/
theorem exec_mem_of_no_access {i : Instr} {s t : State} (hi : (isLoad i || isStore i) = false) (h : exec i s = .next t) :
    t.mem = s.mem := by
  obtain ⟨c, ret, s1, -, hsame, henter, -⟩ | hd := exec_next h
  · exact (State.enter_mem henter).trans (by rw [hsame hi])
  · exact hd.mem hi

/-- Settles O22: a load finds no page table to write with paging off, and no other instruction that stores nothing makes a
data access. -/
theorem memoryChangedOnlyByStores : Obligations.MemoryChangedOnlyByStores := by
  intro i s t hstore hload hexec a
  have hmem : t.mem = s.mem := by
    cases hi : isLoad i with
    | true => exact exec_mem_of_isLoad hi (hload.resolve_left (by simp [hi])) hexec
    | false => exact exec_mem_of_no_access (by rw [hi, hstore, Bool.or_false]) hexec
  rw [hmem]

/-! ### Loads and stores with paging off -/

/-- Settles O35: a plain access is one whose translation is the identity. -/
theorem loadPlain : Obligations.LoadPlain := by
  intro s w afe g rd ea hg hp
  obtain ⟨t, v, hexec, hwrote, hbytes, hlt, -⟩ := loadTranslated s s w afe g rd ea _ hg (hp.translated .read)
  exact ⟨t, v, hexec, hwrote, hbytes, hlt⟩

/-- The addresses noted after a store: those noted before, and those of its bytes (R74; log 44). -/
theorem State.mem_storedTo_stored (s : State) (pa : Word) (w : Width) (v : Word) (a : Nat) :
    a ∈ (s.stored pa w v).storedTo ↔ a ∈ s.storedTo ∨ pa.toNat ≤ a ∧ a < pa.toNat + w.bytes := by
  have hbytes : (∃ k ∈ List.range w.bytes, a = pa.toNat + k) ↔ pa.toNat ≤ a ∧ a < pa.toNat + w.bytes := by
    constructor
    · rintro ⟨k, hk, rfl⟩
      have := List.mem_range.mp hk
      omega
    · rintro ⟨hle, hlt⟩
      exact ⟨a - pa.toNat, List.mem_range.mpr (by omega), by omega⟩
  rw [← hbytes]
  exact mem_insertAll (pa.toNat + ·) (List.range w.bytes) s.storedTo a

/-- Settles O36: the store runs at the operand's own address, on the state as it was. -/
theorem storePlain : Obligations.StorePlain := by
  intro s w afe g rd ea hm hg hp
  exact ⟨_, (hp.translated .write).exec_storeOf hg rd, Memory.holdsBytes_writeBE hm _ w.bytes_le (s.reg rd),
    s.mem.sameOutside_writeBE _ w.bytes (s.reg rd), s.mem_storedTo_stored (s.operand ea) w (s.reg rd), rfl⟩

/-! ### A push and then a pop -/

/-- Under every discipline, a pop after a push loads where the push stored and takes SPR back to where it was (R149). -/
theorem State.pop_of_push {s t : State} (hcfg : t.cfg = s.cfg) (hspr : t.spr = s.sprAfterPush) :
    t.popAddr = s.pushAddr ∧ t.sprAfterPop = s.spr := by
  cases hd : s.cfg.stack <;>
    simp [State.popAddr, State.sprAfterPop, State.pushAddr, State.sprAfterPush, hcfg, hspr, hd]

/-- A pop whose translation ends in memory moves SPR and writes the word there to its destination (R149, R151). -/
theorem State.Translated.exec_pop {s s1 : State} {afe : Code} {g : Word → Word} {pa : Word}
    (hg : afeFunction s.cfg afe = some g) (h : s.Translated s.popAddr .read .word pa s1) (rd : Reg) :
    exec (.pop afe rd) s =
      .next (({ s1 with spr := s.sprAfterPop }.setReg rd (g (s1.mem.readBE pa.toNat 4))).retire 0#5) := by
  rw [Machine.exec_pop hg, State.memRead_translated h]
  rfl

/-- The state after a push of `x` with paging off (R149). -/
def State.pushed (s : State) (x : Word) : State :=
  { (s.stored s.pushAddr .word x).retire 0#5 with spr := s.sprAfterPush }

/-- A push with paging off leaves `State.pushed` (R150). -/
theorem State.PlainAccess.exec_push {s : State} (hp : s.PlainAccess s.pushAddr .word) (rd : Reg) :
    exec (.push 0#4 rd) s = .next (s.pushed (s.reg rd)) :=
  State.Pushes.exec_translated (afeFunction_zero s.cfg) (s.pushes_push 0#4 rd) (hp.translated .write)

/-- Where a push was plain, the pop that follows is plain at the same address (R61, R92, R149). -/
theorem State.PlainAccess.pushed {s : State} (hp : s.PlainAccess s.pushAddr .word) (x : Word) :
    (s.pushed x).PlainAccess s.pushAddr .word :=
  ⟨hp.pagingOff, hp.aligned, hp.memory, hp.inside⟩

/-- A pop right after a push writes the pushed word to its destination and takes SPR back (R149, R151). -/
theorem State.PlainAccess.exec_pop_pushed {s : State} (hp : s.PlainAccess s.pushAddr .word) (hm : s.mem.wf = true)
    (x : Word) (rd : Reg) :
    exec (.pop 0#4 rd) (s.pushed x) = .next (({ s.pushed x with spr := s.spr }.setReg rd x).retire 0#5) := by
  obtain ⟨haddr, hspr⟩ := State.pop_of_push (s := s) (t := s.pushed x) rfl rfl
  have hread : (s.pushed x).mem.readBE s.pushAddr.toNat 4 = x := Memory.readBE_writeBE_word hm _ x
  have hpop : (s.pushed x).Translated (s.pushed x).popAddr .read .word s.pushAddr (s.pushed x) := by
    rw [haddr]
    exact (hp.pushed x).translated .read
  rw [hpop.exec_pop (afeFunction_zero _) rd, hspr, hread]

/-- Settles O44: the pop runs on the state the push leaves, at the address it stored to. -/
theorem pushThenPop : Obligations.PushThenPop := by
  intro s rd rd' hm hp
  have hwrote := State.wroteReg { s.pushed (s.reg rd) with spr := s.spr } rd' (s.reg rd) 0#5
  exact ⟨_, _, hp.exec_push rd, hp.exec_pop_pushed hm (s.reg rd) rd', hwrote.value, rfl, hwrote.others,
    s.mem.sameOutside_writeBE _ 4 (s.reg rd)⟩

end Sys2Proof.Machine
end

section
/-! PROOF. Branch, `movepc` and `ib`: what each leaves, and the values that PSR may hold, bit by bit. -/

namespace Sys2Proof.Machine

/-! ### Branch and program counter -/

/-- `b` ends in a jump or in the next instruction, as its condition says (R160). -/
theorem exec_branch (cc : Cond) (target : Operand) (s : State) :
    exec (.branch cc target) s =
      .next (if condHolds cc s.flagr then s.jump (s.operand target) else s.retire 0#5) := by
  rw [exec, execBranch]
  split <;> rfl

/-- Settles O45: the two ends of a branch differ in PCR alone. -/
theorem branchResult : Obligations.BranchResult := by
  intro s cc target
  rw [exec_branch]
  refine ⟨fun hcc => ?taken, fun hcc => ?notTaken⟩
  case taken => rw [if_pos hcc, State.jump]
  case notTaken => rw [hcc, if_neg Bool.false_ne_true, State.retire]

/-- `movepc` writes the sum of its own address and the offset, after the AFE (R162, R190). -/
theorem exec_movepc {s : State} {afe : Code} {g : Word → Word} (hg : afeFunction s.cfg afe = some g) (rd : Reg)
    (off : Operand) :
    exec (.movepc afe rd off) s = .next ((s.setReg rd (g (s.pcr + s.operand off))).retire 0#5) := by
  rw [exec, execMovepc, State.withAfe_some hg]

/-- Settles O46: the sum of words is the sum mod 2^32, and the register write is the whole effect. -/
theorem movepcResult : Obligations.MovepcResult := fun s _ _ rd off hg =>
  ⟨_, s.pcr + s.operand off, exec_movepc hg rd off, BitVec.toNat_add _ _, s.wroteReg rd _ 0#5⟩

/-! ### Return -/

/-- `ib` in Kernel Mode returns to the context that the Previous registers hold, where PSR may hold PPSR (R163). -/
theorem exec_ib {s : State} (hk : s.kernel = true) :
    exec .ib s = if psrLegal s.cfg s.ppsr then .next s.returned else .refused .psrReserved := by
  rw [exec, execIb, State.priv_kernel hk]

/-- Returning right after an entry takes PSR, FLAGR, PDTR and TIDR back to what they were, and PCR to the return address:
in Type-S entry has saved PDTR and TIDR, and in Type-E neither entry nor the return touches them (R163, R215, R226). -/
theorem State.returned_entered (s : State) (c : Cause) (ret hdl : Word) :
    (s.entered c ret hdl).returned =
      { s.entered c ret hdl with psr := s.psr, flagr := s.flagr, pdtr := s.pdtr, tidr := s.tidr, pcr := ret } := by
  cases hs : s.isS <;> simp [State.returned, hs]

/-- Settles O16: the entered state is in Kernel Mode and its PPSR is the interrupted PSR, so `ib` returns, and entry has
changed none of the other registers of the statement. -/
theorem entryThenReturn : Obligations.EntryThenReturn := by
  intro s t c ret henter hlegal
  obtain ⟨c', f, hdl, -, -, -, -, rfl, -⟩ := State.enter_next henter
  have hkernel := (s.enteredFrom c' ret hdl).kernel
  have hib : exec .ib (s.entered c' ret hdl) = .next (s.entered c' ret hdl).returned := by
    rw [exec_ib hkernel, State.entered_cfg, State.entered_ppsr, if_pos hlegal]
  rw [State.returned_entered] at hib
  exact ⟨_, hib, rfl, rfl, rfl, rfl, rfl, rfl, rfl, rfl, rfl, rfl, rfl, rfl, fun _ => rfl⟩

/-! ### The values that PSR may hold -/

/-- A word under a mask is 0 exactly where its bits at the mask's places are 0. -/
theorem and_mask_eq_zero_iff {p m : Word} {places : Nat → Prop}
    (hm : ∀ k : Fin 32, m.getLsbD k = true ↔ places k) :
    p &&& m = 0#32 ↔ ∀ k, places k → p.getLsbD k = false := by
  refine ⟨fun h k hk => ?_, fun h => BitVec.eq_of_getLsbD_eq fun k hlt => ?_⟩
  · by_cases hlt : k < 32
    · have hbit : (p &&& m).getLsbD k = false := by rw [h, BitVec.getLsbD_zero]
      rwa [BitVec.getLsbD_and, (hm ⟨k, hlt⟩).mpr hk, Bool.and_true] at hbit
    · exact BitVec.getLsbD_of_ge p k (Nat.not_lt.mp hlt)
  · cases hk : m.getLsbD k with
    | false => simp [hk]
    | true => simp [h k ((hm ⟨k, hlt⟩).mp hk)]

/-- The values of MMUPS that are a page size (R77). -/
abbrev pageSizeCodes : List (BitVec 3) := [0b001#3, 0b010#3, 0b011#3, 0b100#3, 0b101#3]

/-- A page size that PSR may name is one of R77 that the platform supports (R75). -/
theorem pageSizeOk_iff {c : Config} {ps : BitVec 3} :
    pageSizeOk c ps = true ↔ ps ∈ pageSizeCodes ∧ ps ∈ c.mmuPageSizes := by
  have hcode : ∀ ps : BitVec 3, 1 ≤ ps.toNat ∧ ps.toNat ≤ 5 ↔ ps ∈ pageSizeCodes := by decide
  rw [pageSizeOk, Bool.and_eq_true, Bool.and_eq_true, decide_eq_true_eq, decide_eq_true_eq, List.contains_iff_mem, hcode]

/-- R78 has a geometry for the modes of one and of two levels, with each page size. -/
theorem geometry_isSome_iff : ∀ (mode : BitVec 2) (ps : BitVec 3),
    (geometry mode ps).isSome = true ↔ (mode = 0b01#2 ∨ mode = 0b10#2) ∧ ps ∈ pageSizeCodes := by decide

/-- Paging is in force for a supported mode of a supported page size (R75, R78). -/
theorem pagingOf_isSome_iff {c : Config} {mode : BitVec 2} {ps : BitVec 3} :
    (pagingOf c mode ps).isSome = true ↔
      ((mode = 0b01#2 ∨ mode = 0b10#2) ∧ mode ∈ c.mmuMods) ∧ ps ∈ pageSizeCodes ∧ ps ∈ c.mmuPageSizes := by
  have hsupported : (c.mmuMods.contains mode && c.mmuPageSizes.contains ps) = true ↔
      mode ∈ c.mmuMods ∧ ps ∈ c.mmuPageSizes := by simp
  by_cases h : mode ∈ c.mmuMods ∧ ps ∈ c.mmuPageSizes
  · rw [pagingOf, if_pos (hsupported.mpr h), geometry_isSome_iff]
    simp [h]
  · rw [pagingOf, if_neg (mt hsupported.mp h)]
    exact iff_of_false Bool.false_ne_true fun ⟨⟨_, hm⟩, _, hp⟩ => h ⟨hm, hp⟩

/-- The values that PSR may hold in Type-E: IM alone (R23, U7). -/
theorem psrLegal_typeE_iff {c : Config} (hc : c.procType = .typeE) (p : Word) :
    psrLegal c p = true ↔ ∀ k, k ≠ 2 → p.getLsbD k = false := by
  have hreserved : p &&& 0xFFFFFFFB#32 = 0#32 ↔ ∀ k, k ≠ 2 → p.getLsbD k = false := and_mask_eq_zero_iff (by decide)
  rw [psrLegal, hc, beq_iff_eq, hreserved]

/-- The values that PSR may hold in Type-S: reserved bits 0, a mode that is Kernel or User Mode, and paging that is off or
supported (R75, U4, U5, U7, U16); MMUPS may be 000 only where paging is off (log 35). -/
theorem psrLegal_typeS_iff {c : Config} (hc : c.procType = .typeS) (p : Word) :
    psrLegal c p = true ↔
      (∀ k, k = 3 ∨ k = 4 ∨ 10 ≤ k → p.getLsbD k = false) ∧ (psrCmod p = 0b00#2 ∨ psrCmod p = 0b11#2) ∧
      (psrMmuMod p = 0b00#2 ∧ psrMmuPs p = 0b000#3 ∨
       (psrMmuMod p = 0b00#2 ∨ (psrMmuMod p = 0b01#2 ∨ psrMmuMod p = 0b10#2) ∧ psrMmuMod p ∈ c.mmuMods) ∧
        psrMmuPs p ∈ pageSizeCodes ∧ psrMmuPs p ∈ c.mmuPageSizes) := by
  have hreserved : p &&& 0xFFFFFC18#32 = 0#32 ↔ ∀ k, k = 3 ∨ k = 4 ∨ 10 ≤ k → p.getLsbD k = false :=
    and_mask_eq_zero_iff (by decide)
  simp only [psrLegal, hc, Bool.and_eq_true, Bool.or_eq_true, beq_iff_eq, hreserved, and_assoc]
  refine and_congr_right fun _ => and_congr_right fun _ => ?_
  by_cases hoff : psrMmuMod p = 0b00#2
  · simp only [hoff, if_true, Bool.or_eq_true, beq_iff_eq, pageSizeOk_iff, true_and, true_or]
  · simp only [hoff, if_false, pagingOf_isSome_iff, false_and, false_or]

/-- Settles O47: `ib` returns where PPSR is a value that PSR may hold and is refused where it is not, and those values are
told apart by their fields. -/
theorem ibResult : Obligations.IbResult := by
  refine ⟨fun s hk => ⟨fun hlegal => ?returns, fun hillegal => ?refused⟩,
    fun c p => ⟨fun hE => psrLegal_typeE_iff hE p, fun hS => psrLegal_typeS_iff hS p⟩⟩
  case returns => rw [exec_ib hk, if_pos hlegal, State.returned]
  case refused => rw [exec_ib hk, hillegal, if_neg Bool.false_ne_true]

end Sys2Proof.Machine
end

section
/-! PROOF. The system instructions: the stack pointer, interrupt control, the system registers, the counter and the IDT copy,
each in a mode that may run it. What an instruction answers is stated once, for every mode: a privileged one is
`State.priv` of its effect, which Kernel Mode runs and User Mode does not. -/

namespace Sys2Proof.Machine

/-! ### What each instruction answers -/

section
variable {s : State} {afe : Code} {g : Word → Word}

theorem exec_srspr (hg : afeFunction s.cfg afe = some g) (rd : Reg) :
    exec (.srspr afe rd) s = .next ((s.setReg rd (g s.spr)).retire 0#5) := by
  rw [exec, execSrspr, State.withAfe_some hg]

theorem exec_srspw (hg : afeFunction s.cfg afe = some g) (rs : Reg) :
    exec (.srspw afe rs) s = .next ({ s with spr := s.reg rs }.retire 0#5) := by
  rw [exec, execSrspw, State.withAfe_some hg]

theorem exec_srieiw (hg : afeFunction s.cfg afe = some g) (v : MaskOperand) : exec (.srieiw afe v) s =
    s.priv (.next ({ s with psr := psrWithIm s.psr ((s.maskOperand v).getLsbD 0) }.retire 0#5)) := by
  rw [exec, execSrieiw, State.withAfe_some hg]

theorem exec_sridtw (hg : afeFunction s.cfg afe = some g) (rs : Reg) : exec (.sridtw afe rs) s =
    s.priv (if (s.reg rs).toNat % 8 = 0 then .next ({ s with idtr := s.reg rs }.retire 0#5)
      else .refused .idtrAlignment) := by
  rw [exec, execSridtw, State.withAfe_some hg]

/-- `swi` is what Type-S has: entry to the interrupt it names, or a refusal (R182). -/
theorem exec_swi (hs : s.isS = true) (hg : afeFunction s.cfg afe = some g) (rd : Reg) (n : Operand) :
    exec (.swi afe rd n) s =
      if 64 ≤ (s.operand n).toNat ∧ (s.operand n).toNat ≤ 127 then
        s.enter ⟨(s.operand n).toNat, none, none⟩ (s.pcr + 4#32)
      else .refused .swiNumber := by
  rw [exec, execSwi, State.onlyS_typeS hs, State.withAfe_some hg]

/-- A read of a register that the type has, privileged unless both modes may read it (R176, R183). -/
theorem exec_srRegR (hg : afeFunction s.cfg afe = some g) {r : ReadReg} (hr : s.isS = true ∨ r.inTypeE = true) (rd : Reg) :
    exec (.srRegR r ⟨rd, afe⟩) s =
      if bothModes r then .next ((s.setReg rd (g (s.readSys r))).retire 0#5)
      else s.priv (.next ((s.setReg rd (g (s.readSys r))).retire 0#5)) := by
  rw [exec, execSrRegR, if_pos (Bool.or_eq_true_iff.mpr hr), State.withAfe_some hg]

/-- A write of a register that the type has (R177). -/
theorem exec_srRegW {r : WriteReg} (hr : s.isS = true ∨ r.inTypeE = true) (rs : Reg) : exec (.srRegW r rs) s =
    s.priv (if r = .psr ∧ psrWritable s.cfg (s.reg rs) = false then .refused .psrReserved
      else .next ((s.writeSys r (s.reg rs)).retire 0#5)) := by
  rw [exec, execSrRegW, if_pos (Bool.or_eq_true_iff.mpr hr)]

/-- Type-E ends the run on the read of a register that it lacks (D45). -/
theorem exec_srRegR_lacking {r : ReadReg} (hs : s.isS = false) (hr : ¬ r.inTypeE = true) (d : Dest) :
    exec (.srRegR r d) s = .fault .typeEInvalid := by
  rw [exec, execSrRegR, hs, Bool.false_or, if_neg hr]

/-- Type-E ends the run on the write of a register that it lacks (D45). -/
theorem exec_srRegW_lacking {r : WriteReg} (hs : s.isS = false) (hr : ¬ r.inTypeE = true) (rs : Reg) :
    exec (.srRegW r rs) s = .fault .typeEInvalid := by
  rw [exec, execSrRegW, hs, Bool.false_or, if_neg hr]

/-! ### Privilege -/

/-- User Mode refuses a privileged instruction where USER_PRIV_FAULT is off (R233, D29). -/
theorem State.priv_refused (hk : s.kernel = false) (hu : s.cfg.userPrivFault = false) (k : Answer) :
    s.priv k = .refused .privilegedInUserMode := by
  simp [State.priv, hk, hu]

/-- User Mode enters interrupt 41 in place of a privileged instruction where USER_PRIV_FAULT is on (R233). -/
theorem State.priv_enters (hk : s.kernel = false) (hu : s.cfg.userPrivFault = true) (k : Answer) :
    s.priv k = s.enter ⟨41, some s.pcr, none⟩ s.pcr := by
  simp [State.priv, hk, hu]

/-- In Type-S a privileged instruction does nothing before its privilege is checked (R183; log 52). -/
theorem exec_of_isPrivileged {i : Instr} (hs : s.isS = true) (hi : isPrivileged i = true)
    (hg : afeFunction s.cfg (afeOf i) = some g) : ∃ k, exec i s = s.priv k := by
  cases i
  case ib | idts | frcrCopyIn => exact ⟨_, rfl⟩
  case srieiw afe v => exact ⟨_, exec_srieiw hg v⟩
  case sridtw afe rs => exact ⟨_, exec_sridtw hg rs⟩
  case srRegR r d =>
    have hr : ¬ bothModes r = true := by simpa [isPrivileged] using hi
    exact ⟨_, (exec_srRegR hg (.inl hs) d.rd).trans (if_neg hr)⟩
  case srRegW r rs => exact ⟨_, exec_srRegW (.inl hs) rs⟩
  case tlbFlush => exact ⟨_, State.onlyS_typeS hs _⟩
  all_goals cases hi

end

/-! ### Entry to an interrupt that no device has -/

/-- Only a device's number is taken from the pending set (R215). -/
theorem State.entered_pending_of_not_hardware (s : State) {c : Cause} (hc : ¬ (4 ≤ c.number ∧ c.number ≤ 37))
    (ret hdl : Word) : (s.entered c ret hdl).pending = s.pending := by
  rw [State.entered_pending, if_neg hc]

/-- A cause that records nothing in FI1R leaves it as it was (R202). -/
theorem State.entered_fi1r_none (s : State) (n : Nat) (fi0 : Option Word) (ret hdl : Word) :
    (s.entered ⟨n, fi0, none⟩ ret hdl).fi1r = s.fi1r := by
  rw [State.entered_fi1r]
  exact ite_self _

/-- Settles O56: the instruction is `State.priv` of an effect, so User Mode refuses it or enters 41 on the state as it
is. -/
theorem privilegedInUserMode : Obligations.PrivilegedInUserMode := by
  intro i s g hs hk hi hg
  obtain ⟨k, hexec⟩ := exec_of_isPrivileged hs hi hg
  rw [hexec]
  refine ⟨fun hu => State.priv_refused hk hu k, fun hdl hu hv => ?_⟩
  rw [State.priv_enters hk hu, State.enter_vector (c := ⟨41, some s.pcr, none⟩) hv]
  exact ⟨_, rfl, s.enteredFrom _ _ _, s.keptByEntry _ _ _, s.entryOnly _ _ _, rfl, rfl, rfl,
    s.entered_fi1r_none _ _ _ _, s.entered_pending_of_not_hardware (show ¬ (4 ≤ 41 ∧ 41 ≤ 37) by decide) _ _⟩

/-- Settles O51: a number from 64 to 127 is entered with the next address saved, and none of these is a device's. -/
theorem swiEnters : Obligations.SwiEnters := by
  intro s afe g rd n hs hg
  rw [exec_swi hs hg rd n]
  refine ⟨fun hdl hlo hhi hv => ?_, fun hout => if_neg (by omega)⟩
  rw [if_pos ⟨hlo, hhi⟩, State.enter_vector (c := ⟨(s.operand n).toNat, none, none⟩) hv]
  have hnumber : ¬ (4 ≤ (s.operand n).toNat ∧ (s.operand n).toNat ≤ 37) := by omega
  exact ⟨_, rfl, s.enteredFrom _ _ _, s.keptByEntry _ _ _, s.entryOnly _ _ _, rfl, rfl, rfl,
    s.entered_fi1r_none _ _ _ _, s.entered_pending_of_not_hardware hnumber _ _⟩

/-! ### The stack pointer -/

/-- Under every discipline a push stores at an address as aligned as SPR (R149). -/
theorem State.toNat_pushAddr_mod_four (s : State) : s.pushAddr.toNat % 4 = s.spr.toNat % 4 := by
  unfold State.pushAddr
  split
  · rfl
  · rfl
  · bv_omega

/-- Under every discipline a pop loads at an address as aligned as SPR (R149). -/
theorem State.toNat_popAddr_mod_four (s : State) : s.popAddr.toNat % 4 = s.spr.toNat % 4 := by
  unfold State.popAddr
  split
  · bv_omega
  · bv_omega
  · rfl

/-- Settles O48: neither instruction looks at the alignment of SPR, and a push or pop at a misaligned SPR is one of the
accesses that stop. -/
theorem sprAccess : Obligations.SprAccess := by
  intro s afe g rd rs hg
  obtain ⟨-, hpush, hppush, hpop, -⟩ := forbiddenAccessesStop s afe g hg
  rw [State.toNat_pushAddr_mod_four] at hpush hppush
  rw [State.toNat_popAddr_mod_four] at hpop
  exact ⟨⟨_, exec_srspr hg rd, s.wroteReg rd _ 0#5⟩, exec_srspw hg rs,
    fun hspr r => ⟨hpush r hspr, hpop r hspr, hppush hspr⟩⟩

/-! ### Interrupt control -/

/-- PSR.IM reads back as it was written (R173). -/
@[simp] theorem psrIm_withIm (p : Word) (im : Bool) : psrIm (psrWithIm p im) = im := by
  cases im
  · exact psrIm_masked p
  · simp [psrIm, psrWithIm]

/-- Settles O49: in Kernel Mode `srieiw` writes IM and no other bit of PSR, and `sridtw` writes IDTR if it is aligned. -/
theorem interruptControlWrites : Obligations.InterruptControlWrites := by
  intro s afe g hg hk
  refine ⟨fun v => ⟨_, (exec_srieiw hg v).trans (State.priv_kernel hk _), psrIm_withIm _ _,
    fun _ => psrWithIm_bit _ _, rfl⟩, fun rs h => ?_, fun rs h => ?_⟩
  · rw [exec_sridtw hg, State.priv_kernel hk, if_pos h, State.retire]
  · rw [exec_sridtw hg, State.priv_kernel hk, if_neg h]

/-- The flag words that `idts` reads, by their number (R175, R205). -/
theorem State.getElem?_idtFlags (s : State) (n : Nat) {k i : Nat} (hi : i < k) :
    (s.idtFlags n k)[i]? = some (s.mem.readBE (s.idtFlagsAddr (n + i)).toNat 4) := by
  induction k generalizing n i with
  | zero => omega
  | succ k ih =>
    rw [State.idtFlags]
    cases i with
    | zero => rfl
    | succ i =>
      rw [List.getElem?_cons_succ, ih (n + 1) (by omega), Nat.add_right_comm n 1 i, Nat.add_assoc]

/-- The flag word of an entry is the one that the order of its words says (R205). -/
theorem flagsOffset_eq (o : IdtWordOrder) : flagsOffset o = if o = .hdlFirst then 4#32 else 0#32 := by
  cases o <;> rfl

/-- `idts` in Kernel Mode, with interrupts disabled and the table in memory (R175, U11). -/
theorem exec_idts {s : State} (hk : s.kernel = true) (him : psrIm s.psr = false)
    (hin : s.idtr.toNat + 8 * idtEntries ≤ s.ramTop) :
    exec .idts s = .next ({ s with idtc := s.idtFlags 0 idtEntries }.retire 0#5) := by
  rw [exec, execIdts, State.priv_kernel hk, him, if_neg Bool.false_ne_true, if_pos hin]

/-- Settles O50: the copy is the list of flag words from entry 0 on, and an entry's two words lie 0 and 4 bytes into it, in
the order that the parameter gives. -/
theorem idtsLoadsTable : Obligations.IdtsLoadsTable := by
  refine ⟨fun s hk him hin => ⟨_, exec_idts hk him hin, s.length_idtFlags 0 idtEntries, fun n hn => ?copy, rfl⟩,
    fun s n => ⟨fun horder => ?hdlFirst, fun horder => ?flagsFirst⟩⟩
  case copy =>
    rw [← flagsOffset_eq]
    exact (s.getElem?_idtFlags 0 hn).trans (by rw [Nat.zero_add, State.idtFlagsAddr])
  case hdlFirst => simp [State.hdlAddr, State.idtFlagsAddr, horder, hdlOffset, flagsOffset]
  case flagsFirst => simp [State.hdlAddr, State.idtFlagsAddr, horder, hdlOffset, flagsOffset]

end Sys2Proof.Machine
end

section
/-! PROOF. The system registers: which of them a type has and a mode may read, and the values that may be written to PSR; and
the copies of FRCR. -/

namespace Sys2Proof.Machine

/-! ### Reads -/

/-- The registers that both modes may read (R183). -/
theorem bothModes_iff (r : ReadReg) : bothModes r = true ↔ r ∈ [.cpuidr, .coreidr, .iosar, .frclr, .frchr] := by
  cases r <;> decide

/-- A register that the type has and the mode may read is read (R176, R183). -/
theorem exec_srRegR_readable {s : State} {afe : Code} {g : Word → Word} (hg : afeFunction s.cfg afe = some g) {r : ReadReg}
    (htype : s.isS = true ∨ r.inTypeE = true) (hmode : s.kernel = true ∨ bothModes r = true) (rd : Reg) :
    exec (.srRegR r ⟨rd, afe⟩) s = .next ((s.setReg rd (g (s.readSys r))).retire 0#5) := by
  rw [exec_srRegR hg htype]
  by_cases hb : bothModes r = true
  · rw [if_pos hb]
  · rw [if_neg hb, State.priv_kernel (hmode.resolve_right hb)]

/-- Settles O52: the type must have the register and the mode must be allowed to read it; the values are those of R176. -/
theorem systemRegisterReads : Obligations.SystemRegisterReads := by
  intro s afe g rd hg
  refine ⟨fun r htype hmode => ?read, fun r hs hr => ?lacking, fun r => ?privileged, rfl, rfl, rfl, rfl, rfl, rfl, rfl,
    rfl, rfl, rfl, rfl, rfl, rfl, BitVec.toNat_setWidth_of_le (by decide), rfl, rfl, rfl, rfl⟩
  case read =>
    rw [← ReadReg.inTypeE_iff] at htype
    rw [← bothModes_iff] at hmode
    exact ⟨_, exec_srRegR_readable hg htype hmode rd, s.wroteReg rd _ 0#5⟩
  case lacking => exact exec_srRegR_lacking hs (mt (ReadReg.inTypeE_iff r).mp hr) _
  case privileged => rw [isPrivileged, Bool.not_eq_true', ← Bool.not_eq_true, bothModes_iff]

/-! ### Writes -/

section
variable {s : State} {r : WriteReg}

/-- In Kernel Mode a register other than PSR takes any value (R177). -/
theorem exec_srRegW_of_ne_psr (hk : s.kernel = true) (htype : s.isS = true ∨ r.inTypeE = true) (hr : r ≠ .psr)
    (rs : Reg) : exec (.srRegW r rs) s = .next ((s.writeSys r (s.reg rs)).retire 0#5) := by
  rw [exec_srRegW htype, State.priv_kernel hk, if_neg (fun h => hr h.1)]

/-- In Kernel Mode PSR takes a value that may be written to it, and refuses another (R177). -/
theorem exec_srRegW_psr (hk : s.kernel = true) (rs : Reg) : exec (.srRegW .psr rs) s =
    if psrWritable s.cfg (s.reg rs) then .next ({ s with psr := s.reg rs }.retire 0#5) else .refused .psrReserved := by
  rw [exec_srRegW (.inr rfl), State.priv_kernel hk]
  cases psrWritable s.cfg (s.reg rs) <;> rfl

end

/-- The values that may be written to PSR in Type-E: IM alone (R23, U7). -/
theorem psrWritable_typeE_iff {c : Config} (hc : c.procType = .typeE) (p : Word) :
    psrWritable c p = true ↔ ∀ k, k ≠ 2 → p.getLsbD k = false := by
  simp [psrWritable, hc, psrLegal_typeE_iff hc]

/-- The values that may be written to PSR in Type-S: those that PSR may hold, with a page size in MMUPS in every paging mode
(R75, R177, U4, U5, U7). -/
theorem psrWritable_typeS_iff {c : Config} (hc : c.procType = .typeS) (p : Word) :
    psrWritable c p = true ↔
      (∀ k, k = 3 ∨ k = 4 ∨ 10 ≤ k → p.getLsbD k = false) ∧ (psrCmod p = 0b00#2 ∨ psrCmod p = 0b11#2) ∧
      (psrMmuMod p = 0b00#2 ∨ (psrMmuMod p = 0b01#2 ∨ psrMmuMod p = 0b10#2) ∧ psrMmuMod p ∈ c.mmuMods) ∧
      psrMmuPs p ∈ pageSizeCodes ∧ psrMmuPs p ∈ c.mmuPageSizes := by
  have hne : psrMmuPs p ∈ pageSizeCodes → psrMmuPs p ≠ 0b000#3 := by
    rintro hmem heq
    rw [heq] at hmem
    exact absurd hmem (by decide)
  have hsize : psrWritable c p = true ↔ psrLegal c p = true ∧ psrMmuPs p ≠ 0b000#3 := by simp [psrWritable, hc]
  rw [hsize, psrLegal_typeS_iff hc]
  constructor
  · rintro ⟨⟨hreserved, hcmod, ⟨-, hzero⟩ | hpaging⟩, hps⟩
    · exact absurd hzero hps
    · exact ⟨hreserved, hcmod, hpaging⟩
  · rintro ⟨hreserved, hcmod, hpaging⟩
    exact ⟨⟨hreserved, hcmod, .inr hpaging⟩, hne hpaging.2.1⟩

/-- A value with a field that R177 forbids in Type-S may not be written to PSR (R75, U4, U5, U7). -/
theorem psrWritable_typeS_eq_false {c : Config} (hc : c.procType = .typeS) {p : Word}
    (h : (∃ k, (k = 3 ∨ k = 4 ∨ 10 ≤ k) ∧ p.getLsbD k = true) ∨ psrCmod p = 0b01#2 ∨ psrCmod p = 0b10#2 ∨
      psrMmuMod p = 0b11#2 ∨ (psrMmuMod p ≠ 0b00#2 ∧ psrMmuMod p ∉ c.mmuMods) ∨
      psrMmuPs p ∈ [0b000#3, 0b110#3, 0b111#3] ∨ psrMmuPs p ∉ c.mmuPageSizes) : psrWritable c p = false := by
  have hsizes : ∀ ps : BitVec 3, ps ∈ [0b000#3, 0b110#3, 0b111#3] → ps ∉ pageSizeCodes := by decide
  rw [← Bool.not_eq_true, psrWritable_typeS_iff hc]
  rintro ⟨hreserved, hcmod, hmode, hsize, hsupported⟩
  obtain ⟨k, hk, hbit⟩ | hcmod' | hcmod' | hmode' | ⟨hon, hmode'⟩ | hsize' | hsupported' := h
  · rw [hreserved k hk] at hbit
    cases hbit
  · simp [hcmod'] at hcmod
  · simp [hcmod'] at hcmod
  · simp [hmode'] at hmode
  · exact hmode' (hmode.resolve_left hon).2
  · exact hsizes _ hsize' hsize
  · exact hsupported' hsupported

/-- The processor type, as a parameter. -/
theorem State.procType_of_isS {s : State} (hs : s.isS = true) : s.cfg.procType = .typeS := by
  simpa [State.isS] using hs

theorem State.procType_of_not_isS {s : State} (hs : ¬ s.isS = true) : s.cfg.procType = .typeE := by
  cases hc : s.cfg.procType with
  | typeS => exact absurd (by simp [State.isS, hc]) hs
  | typeE => rfl

/-- Settles O53: PSR is checked by its fields, type by type, and every other register that the type has is written as it
is. -/
theorem systemRegisterWrites : Obligations.SystemRegisterWrites := by
  intro s rs hk
  have hwrite : ∀ {r : WriteReg}, (s.isS = true ∨ r.inTypeE = true) → r ≠ .psr →
      exec (.srRegW r rs) s = .next ((s.writeSys r (s.reg rs)).retire 0#5) := fun htype hr =>
    exec_srRegW_of_ne_psr hk htype hr rs
  refine ⟨fun p hp hfields => ?accepted, fun p hp hfields => ?refused,
    fun r hs hr => exec_srRegW_lacking hs (mt (WriteReg.inTypeE_iff r).mp hr) rs,
    hwrite (.inr rfl) nofun, hwrite (.inr rfl) nofun, ?pflagr, hwrite (.inr rfl) nofun, hwrite (.inr rfl) nofun,
    fun hs => ⟨hwrite (.inl hs) nofun, hwrite (.inl hs) nofun, hwrite (.inl hs) nofun, hwrite (.inl hs) nofun,
      hwrite (.inl hs) nofun, hwrite (.inl hs) nofun⟩⟩
  case accepted =>
    have hw : psrWritable s.cfg (s.reg rs) = true := by
      rw [← hp]
      split at hfields
      case isTrue hs => exact (psrWritable_typeS_iff (State.procType_of_isS hs) p).mpr hfields
      case isFalse hs => exact (psrWritable_typeE_iff (State.procType_of_not_isS hs) p).mpr hfields
    rw [exec_srRegW_psr hk, if_pos hw, hp, State.retire]
  case refused =>
    have hw : psrWritable s.cfg (s.reg rs) = false := by
      rw [← hp]
      split at hfields
      case isTrue hs => exact psrWritable_typeS_eq_false (State.procType_of_isS hs) hfields
      case isFalse hs =>
        obtain ⟨k, hk, hbit⟩ := hfields
        rw [← Bool.not_eq_true, psrWritable_typeE_iff (State.procType_of_not_isS hs)]
        exact fun h => Bool.false_ne_true ((h k hk).symm.trans hbit)
    rw [exec_srRegW_psr hk, hw, if_neg Bool.false_ne_true]
  case pflagr =>
    rw [← BitVec.setWidth_eq_extractLsb' (by decide)]
    exact hwrite (.inr rfl) nofun

/-! ### FRCR -/

/-- A double word is its high half and its low half (R35). -/
theorem toNat_halves (x : BitVec 64) :
    (x.extractLsb' 32 32).toNat * 2 ^ 32 + (x.extractLsb' 0 32).toNat = x.toNat := by
  have hlt := x.isLt
  rw [BitVec.extractLsb'_toNat, BitVec.extractLsb'_toNat, Nat.shiftRight_eq_div_pow, Nat.shiftRight_zero]
  omega

/-- Two words joined are a double word with the first as its high half (R35). -/
theorem toNat_append_words (hi lo : Word) : (hi ++ lo).toNat = hi.toNat * 2 ^ 32 + lo.toNat := by
  rw [BitVec.toNat_append, ← Nat.shiftLeft_add_eq_or_of_lt lo.isLt, Nat.shiftLeft_eq]

/-- Settles O54: copy-out splits the counter into its halves, and copy-in joins the buffers. -/
theorem frcrCopies : Obligations.FrcrCopies := by
  intro s
  refine ⟨⟨_, rfl, toNat_halves s.frcr, rfl⟩, fun hk => ⟨{ s with frcr := s.frchr ++ s.frclr }.retire 0#5, ?_,
    toNat_append_words s.frchr s.frclr, rfl⟩⟩
  rw [exec, execFrcrCopyIn, State.priv_kernel hk]

end Sys2Proof.Machine
end

section
/-! PROOF. The AFE: the functions of the codes that have a meaning, and the refusal of the others by every instruction that
carries one. -/

namespace Sys2Proof.Machine

/-! ### The functions -/

/-- `#sext8-32` keeps the signed value of the low byte (R193). -/
theorem toInt_sext8 (v : Word) : (sext8 v).toInt = (v.setWidth 8).toInt :=
  BitVec.toInt_signExtend_of_le (by decide)

theorem afeFunction_sext8 {c : Config} {code : Code} (hc : c.procType = .typeS) (hne : code ≠ 0#4)
    (hcode : c.sext8Code = some code) : afeFunction c code = some sext8 := by
  rw [afeFunction, if_neg hne, if_pos ⟨hc, hcode⟩]

theorem afeFunction_eq_none {c : Config} {code : Code} (hne : code ≠ 0#4) (hcode : c.sext8Code ≠ some code) :
    afeFunction c code = none := by
  rw [afeFunction, if_neg hne, if_neg fun h => hcode h.2]

/-! ### The refusal -/

/-- A code without a meaning is refused, whatever the instruction would have done (R193, D3). -/
theorem State.withAfe_none {s : State} {code : Code} (h : afeFunction s.cfg code = none)
    (k : (Word → Word) → Answer) : s.withAfe code k = .refused .afeCode := by
  rw [State.withAfe, h]

/-- In Type-S an instruction that carries an AFE code looks at the code before anything else: it is `State.withAfe` of that
code. The instructions without an AFE field carry code 0, which the premise leaves out. -/
theorem exec_eq_withAfe {i : Instr} {s : State} (hs : s.isS = true) (hne : afeOf i ≠ 0#4) :
    ∃ k, exec i s = s.withAfe (afeOf i) k := by
  cases i
  case swi => exact ⟨_, State.onlyS_typeS hs _⟩
  case srRegR => exact ⟨_, if_pos (Bool.or_eq_true_iff.mpr (.inl hs))⟩
  case wl16 | lil | lih | ppush | branch | ib | idts | srRegW | frcrCopyOut | frcrCopyIn | tlbFlush | sync =>
    exact absurd rfl hne
  all_goals exact ⟨_, rfl⟩

/-- Settles O33: the codes with a meaning have the functions of R192 and R193, and every instruction that carries another
code asks for its function first and is refused. -/
theorem afeFunctions : Obligations.AfeFunctions := by
  refine ⟨fun c => ⟨_, afeFunction_zero c, fun _ => rfl⟩,
    fun c code hc hne hcode => ⟨sext8, afeFunction_sext8 hc hne hcode, toInt_sext8⟩, fun i s hs hne hcode => ?_⟩
  obtain ⟨k, hexec⟩ := exec_eq_withAfe hs hne
  rw [hexec, State.withAfe_none (afeFunction_eq_none hne hcode)]

end Sys2Proof.Machine
end

section
/-! PROOF. Exceptions: when an interrupt can be entered and when the attempt ends the run, which hardware request a boundary
takes, and that User Mode ends in no other way. -/

namespace Sys2Proof.Machine

/-! ### When entry can be carried out -/

/-- A vector says of the flag word in its entry that it is valid and enabled (R204). -/
theorem State.Vector.flags_of_entry {s : State} {n : Nat} {h f : Word} (v : s.Vector n h) (hf : s.idtc[n]? = some f) :
    f.getLsbD 0 = true ∧ f.getLsbD 1 = true := by
  obtain ⟨⟨g, hg, hvalid, henabled⟩, -⟩ := v
  rw [hf] at hg
  cases hg
  exact ⟨hvalid, henabled⟩

/-- An interrupt can be entered: through its own vector, or through that of 43 where its own entry is invalid (R212). -/
def State.CanEnter (s : State) (n : Nat) : Prop :=
  (∃ h, s.Vector n h) ∨ n ≠ 43 ∧ (∃ f, s.idtc[n]? = some f ∧ f.getLsbD 0 = false) ∧ ∃ h, s.Vector 43 h

/-- An invalid entry is not the interrupt's own way in, and 43 may stand in for it (R212). -/
theorem State.canEnter_of_invalid {s : State} {n : Nat} {f : Word} (hf : s.idtc[n]? = some f) (hinv : f.getLsbD 0 = false) :
    s.CanEnter n ↔ n ≠ 43 ∧ ∃ h, s.Vector 43 h := by
  constructor
  · rintro (⟨h, v⟩ | ⟨hne, -, v⟩)
    · rw [(v.flags_of_entry hf).1] at hinv
      cases hinv
    · exact ⟨hne, v⟩
  · rintro ⟨hne, v⟩
    exact .inr ⟨hne, ⟨f, hf, hinv⟩, v⟩

/-- For a valid entry nothing stands in: its own vector is the only way in (R212, R213). -/
theorem State.canEnter_of_valid {s : State} {n : Nat} {f : Word} (hf : s.idtc[n]? = some f) (hvalid : f.getLsbD 0 = true) :
    s.CanEnter n ↔ ∃ h, s.Vector n h := by
  refine ⟨?_, .inl⟩
  rintro (v | ⟨-, ⟨g, hg, hinv⟩, -⟩)
  · exact v
  · rw [hf] at hg
    cases hg
    rw [hvalid] at hinv
    cases hinv

/-- An interrupt whose entry is invalid enters 43 with its number, through the vector of 43 (R212). -/
theorem State.enter_of_invalid {s : State} {c : Cause} {f h : Word} (hne : c.number ≠ 43)
    (hf : s.idtc[c.number]? = some f) (hinv : f.getLsbD 0 = false) (v : s.Vector 43 h) (ret : Word) :
    s.enter c ret = .next (s.entered (invalidVector c.number) ret h) := by
  obtain ⟨⟨g, hg, hvalid, henabled⟩, hhandler⟩ := v
  have hf' : idtValid f = false := hinv
  have hg' : idtValid g = true := hvalid
  have hm : idtMask g = true := henabled
  have hr : s.physRead (s.hdlAddr (invalidVector c.number).number) = some h := hhandler
  simp [State.enter, State.enterValid, hf, hf', hne, hg, hg', hm, hr]

/-- Entry completes just if the interrupt can be entered (R212, R213, R215). -/
theorem State.enter_completes_iff (s : State) (c : Cause) (ret : Word) :
    (∃ t, s.enter c ret = .next t) ↔ s.CanEnter c.number := by
  constructor
  · rintro ⟨t, henter⟩
    obtain ⟨c', f, h, hf, hvalid, henabled, hhandler, -, rfl | ⟨rfl, hne, hinv⟩⟩ := State.enter_next henter
    · exact .inl ⟨h, ⟨f, hf, hvalid, henabled⟩, hhandler⟩
    · exact .inr ⟨hne, hinv, h, ⟨f, hf, hvalid, henabled⟩, hhandler⟩
  · rintro (⟨h, v⟩ | ⟨hne, ⟨f, hf, hinv⟩, h, v⟩)
    · exact ⟨_, State.enter_vector v ret⟩
    · exact ⟨_, State.enter_of_invalid hne hf hinv v ret⟩

/-- Entry is the double fault just if the interrupt cannot be entered (R220). -/
theorem State.enter_doubleFault_iff (s : State) (c : Cause) (ret : Word) :
    s.enter c ret = .fault .doubleFault ↔ ¬ s.CanEnter c.number := by
  rw [← State.enter_completes_iff s c ret]
  constructor
  · rintro hfault ⟨t, hnext⟩
    rw [hfault] at hnext
    cases hnext
  · exact (State.enter_cases s c ret).resolve_left

/-- Settles O15: in each case neither the interrupt nor 43 in its place has a vector, and without one entry cannot be carried
out. -/
theorem doubleFaultEndsRun : Obligations.DoubleFaultEndsRun := by
  intro s c ret
  simp only [State.enter_doubleFault_iff]
  refine ⟨fun hnone => ?_, fun f hc hf hinv => ?_, fun f hf hvalid hmask => ?_, fun f hf hvalid hhandler => ?_,
    fun f g hf hinv hg hbad => ?_, Iff.rfl⟩
  · rintro (⟨h, ⟨f, hf, -⟩, -⟩ | ⟨-, ⟨f, hf, -⟩, -⟩) <;> simp [hnone] at hf
  · rw [State.canEnter_of_invalid (by rw [hc]; exact hf) hinv]
    exact fun ⟨hne, _⟩ => hne hc
  · rw [State.canEnter_of_valid hf hvalid]
    rintro ⟨h, v⟩
    rw [(v.flags_of_entry hf).2] at hmask
    cases hmask
  · rw [State.canEnter_of_valid hf hvalid]
    rintro ⟨h, v⟩
    rw [v.handler] at hhandler
    cases hhandler
  · rw [State.canEnter_of_invalid hf hinv]
    rintro ⟨-, h, v⟩
    obtain ⟨hvalid, henabled⟩ := v.flags_of_entry hg
    rw [hvalid, henabled, v.handler] at hbad
    rcases hbad with hbad | hbad | hbad <;> cases hbad

/-! ### What entry leaves -/

/-- Settles O12: through its own vector an interrupt leaves the entered state. -/
theorem entrySavesContext : Obligations.EntrySavesContext := fun s c ret h v =>
  ⟨s.entered c ret h, State.enter_vector v ret, s.enteredFrom c ret h, s.keptByEntry c ret h, rfl, rfl, rfl, rfl,
    s.entryOnly c ret h, rfl⟩

/-- Settles O14: the entered state is that of 43, which no device has, so no request leaves the pending set. -/
theorem invalidVectorEnters43 : Obligations.InvalidVectorEnters43 := fun s c ret _ h hne hf hinv v =>
  ⟨s.entered (invalidVector c.number) ret h, State.enter_of_invalid hne hf hinv v ret, s.enteredFrom _ ret h,
    s.keptByEntry _ ret h, s.entryOnly _ ret h, rfl, rfl, rfl, fun hs => State.entered_fi1r_typeS hs _ _ _ _ _,
    s.entered_pending_of_not_hardware (by decide : ¬ (4 ≤ 43 ∧ 43 ≤ 37)) ret h⟩

/-! ### Maskable interrupts -/

/-- With IM = 0 no hardware request is taken (R208). -/
theorem State.boundary_of_masked {s : State} (him : psrIm s.psr = false) : s.boundary = none := by
  simp [State.boundary, him]

/-- What PSR holds is no part of a vector (R204, R205). -/
theorem State.vector_setPsr (s : State) (p : Word) (n : Nat) (h : Word) :
    State.Vector { s with psr := p } n h ↔ s.Vector n h :=
  ⟨State.Vector.congr (s := { s with psr := p }) (t := s) rfl rfl rfl rfl rfl,
    State.Vector.congr (s := s) (t := { s with psr := p }) rfl rfl rfl rfl rfl⟩

/-- Whether an interrupt can be entered does not depend on PSR (R208). -/
theorem State.canEnter_setPsr (s : State) (p : Word) (n : Nat) :
    State.CanEnter { s with psr := p } n ↔ s.CanEnter n := by
  simp only [State.CanEnter, State.vector_setPsr]

/-- Settles O10: with IM = 0 nothing is taken at the boundary, and what entry needs are vectors, which PSR is no part of. -/
theorem maskableOnlyWhileEnabled : Obligations.MaskableOnlyWhileEnabled := by
  refine ⟨fun s him hr => ?_, fun s c ret im => ⟨?_, State.enter_cases s c ret⟩⟩
  · have hu : s.Undisturbed := ⟨hr, State.boundary_of_masked (by rw [State.atBoundary_psr, him])⟩
    exact hu.step_eq
  · rw [State.enter_completes_iff, State.enter_completes_iff]
    exact (State.canEnter_setPsr s _ _).symm

/-! ### The hardware interrupt that a boundary takes -/

/-- No number stands twice in a rising list. -/
theorem nodup_of_rising {lo : Nat} {l : List Nat} (hl : risingFrom lo l = true) : l.Nodup := by
  induction l generalizing lo with
  | nil => exact List.nodup_nil
  | cons m rest ih =>
    simp only [risingFrom, Bool.and_eq_true, decide_eq_true_eq] at hl
    refine List.nodup_cons.mpr ⟨fun hm => ?_, ih hl.2⟩
    have := le_of_mem_rising hl.2 hm
    omega

/-- A search of a rising list finds the lowest number with a property. -/
theorem find?_of_rising {lo : Nat} {l : List Nat} (hl : risingFrom lo l = true) {p : Nat → Bool} {n : Nat} (hn : n ∈ l)
    (hp : p n = true) (hlower : ∀ m ∈ l, m < n → p m = false) : l.find? p = some n := by
  induction l generalizing lo with
  | nil => cases hn
  | cons m rest ih =>
    simp only [risingFrom, Bool.and_eq_true, decide_eq_true_eq] at hl
    rcases List.mem_cons.mp hn with rfl | hn
    · exact List.find?_cons_of_pos hp
    · have hm : p m = false := hlower m (by simp) (le_of_mem_rising hl.2 hn)
      rw [List.find?_cons_of_neg (by simp [hm])]
      exact ih hl.2 hn fun k hk => hlower k (by simp [hk])

/-- A request whose vector is valid and enabled is deliverable (R211). -/
theorem State.Vector.deliverable {s : State} {n : Nat} {h : Word} (v : s.Vector n h) : s.deliverable n = true := by
  obtain ⟨⟨f, hf, -, henabled⟩, -⟩ := v
  have hm : idtMask f = true := henabled
  simp [State.deliverable, hf, hm]

/-- A request whose entry is valid with Mask = 0 waits (R213). -/
theorem State.not_deliverable {s : State} {n : Nat} {f : Word} (hf : s.idtc[n]? = some f) (hvalid : f.getLsbD 0 = true)
    (hmask : f.getLsbD 1 = false) : s.deliverable n = false := by
  have hv : idtValid f = true := hvalid
  have hm : idtMask f = false := hmask
  simp [State.deliverable, hf, hv, hm]

/-- With IM = 1 the lowest pending request that does not wait is taken (R211, R221). -/
theorem State.boundary_eq_some {s : State} {lo n : Nat} (him : psrIm s.psr = true) (hrising : risingFrom lo s.pending = true)
    (hn : n ∈ s.pending) (hdel : s.deliverable n = true) (hlower : ∀ m ∈ s.pending, m < n → s.deliverable m = false) :
    s.boundary = some n := by
  rw [State.boundary, if_pos him]
  exact find?_of_rising hrising hn hdel hlower

/-- A step that takes a hardware interrupt enters it from the boundary and runs no instruction (R211). -/
theorem step_of_boundary_eq_some {s : State} {n : Nat} (hr : s.requestsNow.all hardwareNumber = true)
    (hb : s.atBoundary.boundary = some n) : step s = s.atBoundary.enter (hardwareCause n) s.pcr := by
  rw [step, State.cycle, if_pos hr, hb, State.atBoundary_pcr]

@[simp] theorem State.atBoundary_fi1r (s : State) : s.atBoundary.fi1r = s.fi1r := by rw [State.atBoundary_rest]

/-- What entry to a hardware interrupt leaves pending: every other request (R215). -/
theorem State.mem_pending_entered {s : State} {c : Cause} {lo : Nat} (hrising : risingFrom lo s.pending = true)
    (hc : 4 ≤ c.number ∧ c.number ≤ 37) (ret h : Word) (m : Nat) :
    m ∈ (s.entered c ret h).pending ↔ m ∈ s.pending ∧ m ≠ c.number := by
  rw [State.entered_pending, if_pos hc, (nodup_of_rising hrising).mem_erase_iff, and_comm]

/-- Settles O9: pending requests stand in rising order, so the search of the boundary ends at the first that does not wait,
and the step is entry to it. -/
theorem stepTakesHardwareInterrupt : Obligations.StepTakesHardwareInterrupt := by
  intro s n h hgood hr him hn v hlower
  obtain ⟨hrising, hmax⟩ := (hgood.atBoundary hr).pending
  have hwait : ∀ m ∈ s.atBoundary.pending, m < n → s.atBoundary.deliverable m = false := fun m hm hlt => by
    obtain ⟨f, hf, hvalid, hmask⟩ := hlower m hm hlt
    exact State.not_deliverable (by rw [State.atBoundary_idtc]; exact hf) hvalid hmask
  have hb : s.atBoundary.boundary = some n :=
    State.boundary_eq_some (by rw [State.atBoundary_psr]; exact him) hrising hn v.atBoundary.deliverable hwait
  have henter : s.atBoundary.enter (hardwareCause n) s.pcr = .next (s.atBoundary.entered (hardwareCause n) s.pcr h) :=
    State.enter_vector (c := hardwareCause n) v.atBoundary s.pcr
  have hfi1r : (s.atBoundary.entered (hardwareCause n) s.pcr h).fi1r = s.fi1r := by
    rw [hardwareCause, State.entered_fi1r_none, State.atBoundary_fi1r]
  exact ⟨_, (step_of_boundary_eq_some hr hb).trans henter, (State.enteredFrom _ _ _ _).of_atBoundary,
    (State.keptByEntry _ _ _ _).of_atBoundary, State.entryOnly _ _ _ _, rfl, rfl, rfl, hfi1r,
    State.mem_pending_entered hrising ⟨le_of_mem_rising hrising hn, hmax n hn⟩ s.pcr h⟩

/-! ### The way out of User Mode -/

/-- An entry after the boundary and a table walk saves the context of the state before them (R215, R222). -/
theorem State.EnteredFrom.of_walked_atBoundary {s s1 t : State} (hw : s.atBoundary.Walked s1) (h : s1.EnteredFrom t) :
    s.EnteredFrom t := by
  rw [State.rest_of_walked_atBoundary hw] at h
  obtain ⟨hpflagr, hppsr, hppdtr, hptidr, hmasked, hkernel, hflagr⟩ := h
  exact ⟨hpflagr, hppsr, hppdtr, hptidr, hmasked, hkernel, hflagr⟩

/-- An entry after the boundary and a table walk keeps what it keeps of the state before them, but for memory, where the walk
may have written page flags (R84, R222). -/
theorem State.KeptByEntry.of_walked_atBoundary {s s1 t : State} (hw : s.atBoundary.Walked s1) (h : s1.KeptByEntry t) :
    s.KeptByEntry { t with mem := s.mem } := by
  rw [State.rest_of_walked_atBoundary hw] at h
  obtain ⟨hgpr, hspr, hpdtr, hkpdtr, htidr, htisr, hidtr, hidtc, -, hpsr⟩ := h
  exact ⟨hgpr, hspr, hpdtr, hkpdtr, htidr, htisr, hidtr, hidtc, fun _ => rfl, hpsr⟩

/-- Outside Kernel Mode no instruction leaves User Mode by its own effect: it does not write PSR (R183, R231). -/
theorem DirectEffect.userMode {i : Instr} {s t : State} (hd : DirectEffect i s t) (hk : s.kernel = false) :
    t.userMode = s.userMode := by
  obtain ⟨-, hpsr, -⟩ := hd.control.controlKept hk
  rw [State.userMode, State.userMode, hpsr]

/-- Settles O19: a step enters an interrupt or runs an instruction by its own effect, and the effect of an instruction that
User Mode may run keeps the mode. -/
theorem userModeLeftOnlyByEntry : Obligations.UserModeLeftOnlyByEntry := by
  intro s t hs hu hstep hleft
  obtain ⟨-, ⟨c, ret, s1, hdl, hw, rfl, hret⟩ | ⟨i, s1, hw, -, hd⟩⟩ := step_next hstep
  · rw [State.atBoundary_pcr] at hret
    exact ⟨(s1.enteredFrom c ret hdl).of_walked_atBoundary hw, (s1.keptByEntry c ret hdl).of_walked_atBoundary hw, hret⟩
  · have hrest := State.rest_of_walked_atBoundary hw
    have hk : s1.kernel = false := by rw [hrest]; exact State.kernel_of_userMode hs hu
    have hu1 : s1.userMode = true := by rw [hrest]; exact hu
    rw [hd.userMode hk, hu1] at hleft
    cases hleft

end Sys2Proof.Machine
end
